-- ==== Sys2Proof/Word.lean ====
section
/-! DEFINITION. The word type of the block and nothing else: 00_scope.md R7, "A word is a 32-bit unsigned value." -/

namespace Sys2Proof

/-- A word: 32 bits, bit 31 the most significant (R7). It is the unit of `RX`, of `REG` and of the reply (R5). -/
abbrev Word := BitVec 32

/-- One listed word of the register file: its word index and its content (20_memory.md R43: an address is a word index;
R52: every access moves exactly one 32-bit word, so the word and not the byte is the unit held). -/
abbrev WordCell := Nat × Word

end Sys2Proof
end

