-- ==== Sys2Proof/Config.lean ====
section
/-! DEFINITION. What an implementation fixes (00_scope.md R6, 10_state.md R14) and the two free values. -/

namespace Sys2Proof

/-- The protocol major version MAJOR: "The admitted protocol versions are MAJOR = 1 and MAJOR = 2" (R2). -/
inductive Major where
  | v1
  | v2
  deriving DecidableEq, Repr

/-- The number MAJOR as the 4-bit configuration register of R14 holds it. -/
def Major.code : Major → BitVec 4
  | .v1 => 1#4
  | .v2 => 2#4

/-- The configuration registers of R14 and the configured reply delay of R6: inputs sampled at reset and constant
afterwards. They are a field of the state, so that every statement speaks of every configuration. -/
structure Config where
  /-- MAJOR. -/
  major : Major
  /-- MINOR, 4 bits, read by no rule (R2). -/
  minor : BitVec 4
  /-- ADDR_MASK, 32 bits (R14). -/
  addrMask : Word
  /-- RX_BUF_WORDS, the capacity of the inbound buffer in words (R14). -/
  rxBufWords : Nat
  /-- REPLY_DELAY_INIT in seconds (R6). -/
  replyDelayInit : Nat
  deriving DecidableEq, Repr

/-- The legal values of R14 and R6: ADDR_MASK = 2^AW − 1 with 1 ≤ AW ≤ 32, and RX_BUF_WORDS ≥ 1.
(MAJOR and MINOR are legal by their types; REPLY_DELAY_INIT ≥ 0 is.) -/
abbrev Config.Legal (c : Config) : Prop :=
  (∃ k : Fin 32, c.addrMask.toNat + 1 = 2 ^ (k.val + 1)) ∧ 1 ≤ c.rxBufWords

/-- The configuration of `State.reset`. DESIGN CHOICE, unsafe (entry 2): AW = 20 and RX_BUF_WORDS = 100000 are R6's
reference values (PRESUMED there from general knowledge), MAJOR = 2, MINOR = 0 and no delay are chosen.
No statement about a step rests on it. -/
def Config.reference : Config where
  major := .v2
  minor := 0#4
  addrMask := 0x000FFFFF#32
  rxBufWords := 100000
  replyDelayInit := 0

/-- REG_INIT of R30 and D22: what the word at an index of the register file holds after reset. It is a FREE VALUE
(entry 3): it has no body, so nothing proved of the model rests on a value of it; "The model must not assume zero." -/
opaque Config.regInit : Nat → Word

/-- What a word of `RX` holds that the transport never wrote: R30 gives "unspecified". It is a FREE VALUE (entry 4). -/
opaque Config.rxUnwritten : Nat → Word

/-- A field of a header word: its highest and its lowest bit (R7: `w[hi:lo]`). -/
structure BitField where
  hi : Nat
  lo : Nat
  deriving DecidableEq, Repr

/-- Where the five fields of a transaction header lie. 93_implementation_defined.md U13: a careful model holds the
layouts as a configuration record "with the values of this spec as its two instances"; the values are in Decode.lean. -/
structure TxnLayout where
  ver : BitField
  tid : BitField
  wc : BitField
  typeRaw : BitField
  info : BitField
  deriving DecidableEq, Repr

/-- Where the fields of a packet header lie (R63). -/
structure PktLayout where
  ver : BitField
  rsvd : BitField
  seq : BitField
  byteOrder : BitField
  ptype : BitField
  deriving DecidableEq, Repr

/-- The type codes of one major version (R67, R68), as the 5-bit latch `type_raw` holds them. -/
structure TypeCodes where
  read : BitVec 5
  write : BitVec 5
  niRead : BitVec 5
  niWrite : BitVec 5
  rmwBits : BitVec 5
  rmwSum : BitVec 5
  deriving DecidableEq, Repr

end Sys2Proof
end

