-- ==== Sys2Proof/Syntax.lean ====
section
/-! DEFINITION. The instructions of the block: one constructor of `Instr` per row of spec/opcode_table.json (18 rows in
three sub-tables, 30_encoding.md R77), with the header fields the row leaves open and the body words of R71. -/

namespace Sys2Proof

/-- The three sub-tables of R77: `packet` is applied to `RX[0]`, `txnV2` to a transaction header when MAJOR = 2,
`txnV1` when MAJOR = 1. -/
inductive Table where
  | packet
  | txnV2
  | txnV1
  deriving DecidableEq, Repr

/-- The packet kinds of R64 and R122: "{Control, Status, Resend, Unknown}". -/
inductive PktKind where
  | control
  | status
  | resend
  | unknown
  deriving DecidableEq, Repr

/-- The decoded transaction types of R91. -/
inductive TxnType where
  | read
  | niRead
  | write
  | niWrite
  | rmwBits
  | rmwSum
  | unknown
  deriving DecidableEq, Repr

/-- The fields of a packet header beside its type (R63). Only `seq` is used; the others are echoed. -/
structure PktFields where
  ver : BitVec 4
  rsvd : BitVec 4
  seq : BitVec 16
  byteOrder : BitVec 4
  deriving DecidableEq, Repr

/-- The fields of a MAJOR = 2 transaction header beside version and type (R65). -/
structure HdrV2 where
  tid : BitVec 12
  wc : BitVec 8
  info : BitVec 4
  deriving DecidableEq, Repr

/-- The fields of a MAJOR = 1 transaction header beside version and type (R66); bit 2 of `info` is the direction bit
(R66: `info_in[2]`), bits 1:0 the info code. -/
structure HdrV1 where
  tid : BitVec 11
  wc : BitVec 9
  info : BitVec 3
  deriving DecidableEq, Repr

/-- The latches a packet header is cut into (10_state.md R12; written by 42_packets.md R121 and R122). -/
structure PacketHeader where
  hdr : Word
  seq : BitVec 16
  ptype : BitVec 4
  kind : PktKind
  deriving DecidableEq, Repr

/-- The latches a transaction header is cut into (R12; written by 40_header_codec.md R90 and R91), at the widths of R12. -/
structure TxnHeader where
  hdr : Word
  ver : BitVec 4
  tid : BitVec 12
  wc : BitVec 9
  typeRaw : BitVec 5
  ttype : TxnType
  infoIn : BitVec 4
  deriving DecidableEq, Repr

/-- The instructions: the four packet kinds, and the seven transaction types once for each major version. -/
inductive Instr where
  /-- PKT.CTRL (R124). -/
  | pktCtrl (p : PktFields)
  /-- PKT.STATUS (R125). -/
  | pktStatus (p : PktFields)
  /-- PKT.RESEND (R126). -/
  | pktResend (p : PktFields)
  /-- PKT.UNKNOWN (R127), with its type field. -/
  | pktUnknown (p : PktFields) (ptype : BitVec 4)
  /-- READ, MAJOR = 2 (R101). -/
  | readV2 (h : HdrV2) (addr : Word)
  /-- WRITE, MAJOR = 2 (R103). -/
  | writeV2 (h : HdrV2) (addr : Word) (data : List Word)
  /-- NI_READ, MAJOR = 2 (R102). -/
  | niReadV2 (h : HdrV2) (addr : Word)
  /-- NI_WRITE, MAJOR = 2 (R104). -/
  | niWriteV2 (h : HdrV2) (addr : Word) (data : List Word)
  /-- RMW_BITS, MAJOR = 2 (R105). -/
  | rmwBitsV2 (h : HdrV2) (addr andTerm orTerm : Word)
  /-- RMW_SUM, MAJOR = 2 (R106). -/
  | rmwSumV2 (h : HdrV2) (addr addend : Word)
  /-- UNKNOWN, MAJOR = 2 (R107), with its version and type fields. -/
  | unknownV2 (h : HdrV2) (ver : BitVec 4) (typeRaw : BitVec 4)
  /-- READ, MAJOR = 1 (R101). -/
  | readV1 (h : HdrV1) (addr : Word)
  /-- WRITE, MAJOR = 1 (R103). -/
  | writeV1 (h : HdrV1) (addr : Word) (data : List Word)
  /-- RMW_BITS, MAJOR = 1 (R105). -/
  | rmwBitsV1 (h : HdrV1) (addr andTerm orTerm : Word)
  /-- RMW_SUM, MAJOR = 1 (R106). -/
  | rmwSumV1 (h : HdrV1) (addr addend : Word)
  /-- NI_READ, MAJOR = 1 (R102). -/
  | niReadV1 (h : HdrV1) (addr : Word)
  /-- NI_WRITE, MAJOR = 1 (R104). -/
  | niWriteV1 (h : HdrV1) (addr : Word) (data : List Word)
  /-- UNKNOWN, MAJOR = 1 (R107), with its version and type fields. -/
  | unknownV1 (h : HdrV1) (ver : BitVec 4) (typeRaw : BitVec 5)
  deriving DecidableEq, Repr

/-- The sub-table of opcode_table.json an instruction's row stands in. -/
def Instr.table : Instr → Table
  | .pktCtrl _ => .packet
  | .pktStatus _ => .packet
  | .pktResend _ => .packet
  | .pktUnknown _ _ => .packet
  | .readV2 _ _ => .txnV2
  | .writeV2 _ _ _ => .txnV2
  | .niReadV2 _ _ => .txnV2
  | .niWriteV2 _ _ _ => .txnV2
  | .rmwBitsV2 _ _ _ _ => .txnV2
  | .rmwSumV2 _ _ _ => .txnV2
  | .unknownV2 _ _ _ => .txnV2
  | .readV1 _ _ => .txnV1
  | .writeV1 _ _ _ => .txnV1
  | .rmwBitsV1 _ _ _ _ => .txnV1
  | .rmwSumV1 _ _ _ => .txnV1
  | .niReadV1 _ _ => .txnV1
  | .niWriteV1 _ _ _ => .txnV1
  | .unknownV1 _ _ _ => .txnV1

/-- The sub-table the transaction headers of a major version are decoded with (R77). -/
def Major.table : Major → Table
  | .v1 => .txnV1
  | .v2 => .txnV2

end Sys2Proof
end

