-- ==== Sys2Proof/WellFormed.lean ====
section
/-! DEFINITION. What the types of Syntax.lean do not say of an instruction: a write carries exactly the data words its
header declares (R71), and the catch-all rows hold only what no earlier row of their sub-table matches (R64, R67 to R69,
R77). A Bool, so that `decide` runs on it. -/

namespace Sys2Proof

/-- The packet types of the Unknown kind: 0x3 to 0xF (R64). -/
def unknownPacketType (t : BitVec 4) : Bool := decide (3 ≤ t.toNat)

/-- The (version, type) pairs of the UNKNOWN type when MAJOR = 2: a foreign version (R69) or a type 0x6 to 0xF (R67). -/
def unknownTxnV2 (ver typeRaw : BitVec 4) : Bool := decide (ver ≠ 2#4) || decide (6 ≤ typeRaw.toNat)

/-- The (version, type) pairs of the UNKNOWN type when MAJOR = 1: a foreign version (R69) or a type that R68 does not
list. -/
def unknownTxnV1 (ver : BitVec 4) (typeRaw : BitVec 5) : Bool :=
  decide (ver ≠ 1#4) ||
    !(typeRaw == 3#5 || typeRaw == 4#5 || typeRaw == 5#5 || typeRaw == 6#5 || typeRaw == 8#5 || typeRaw == 9#5)

/-- An instruction some word sequence encodes. -/
def wellFormed : Instr → Bool
  | .pktCtrl _ => true
  | .pktStatus _ => true
  | .pktResend _ => true
  | .pktUnknown _ t => unknownPacketType t
  | .readV2 _ _ => true
  | .writeV2 h _ data => data.length == h.wc.toNat
  | .niReadV2 _ _ => true
  | .niWriteV2 h _ data => data.length == h.wc.toNat
  | .rmwBitsV2 _ _ _ _ => true
  | .rmwSumV2 _ _ _ => true
  | .unknownV2 _ ver t => unknownTxnV2 ver t
  | .readV1 _ _ => true
  | .writeV1 h _ data => data.length == h.wc.toNat
  | .rmwBitsV1 _ _ _ _ => true
  | .rmwSumV1 _ _ _ => true
  | .niReadV1 _ _ => true
  | .niWriteV1 h _ data => data.length == h.wc.toNat
  | .unknownV1 _ ver t => unknownTxnV1 ver t

/-- The instruction is well formed. -/
abbrev WellFormed (i : Instr) : Prop := wellFormed i = true

end Sys2Proof
end

