-- ==== Sys2Proof/Decode.lean ====
section
/-! DEFINITION. The Header Codec (40_header_codec.md R90 to R93), the decoder of the three sub-tables (30_encoding.md R60 to
R73, R76, R77), the encoder written from the same layouts, and `decodeTableWord`. Every bit position and every code
stands once, in the layout records at the head of the file (R63, R65 to R68). -/

namespace Sys2Proof

/-! ## Bit fields (R7) -/

/-- The width of a field `w[hi:lo]`: `hi − lo + 1` bits. -/
def BitField.width (f : BitField) : Nat := f.hi + 1 - f.lo

/-- `w[hi:lo]`, in a latch of `n` bits: zero-extended where the latch is wider (R74). -/
def BitField.cut (f : BitField) (n : Nat) (w : Word) : BitVec n := (w.extractLsb' f.lo f.width).setWidth n

/-- A value truncated to a field and shifted into its place (R92: "Each argument is truncated to its field"). -/
def BitField.put (f : BitField) (v : Word) : Word := (v &&& BitVec.ofNat 32 (2 ^ f.width - 1)) <<< f.lo

/-! ## Layouts and codes -/

/-- The packet header layout of R63 (entry 7). -/
def pktLayout : PktLayout where
  ver := ⟨31, 28⟩
  rsvd := ⟨27, 24⟩
  seq := ⟨23, 8⟩
  byteOrder := ⟨7, 4⟩
  ptype := ⟨3, 0⟩

/-- The transaction header layouts of R66 (MAJOR = 1) and R65 (MAJOR = 2) (entry 7). -/
def Major.layout : Major → TxnLayout
  | .v1 => { ver := ⟨31, 28⟩, tid := ⟨27, 17⟩, wc := ⟨16, 8⟩, typeRaw := ⟨7, 3⟩, info := ⟨2, 0⟩ }
  | .v2 => { ver := ⟨31, 28⟩, tid := ⟨27, 16⟩, wc := ⟨15, 8⟩, typeRaw := ⟨7, 4⟩, info := ⟨3, 0⟩ }

/-- The type codes of R68 (MAJOR = 1) and R67 (MAJOR = 2) (entry 7). -/
def Major.codes : Major → TypeCodes
  | .v1 => { read := 0x03#5, write := 0x04#5, rmwBits := 0x05#5, rmwSum := 0x06#5, niRead := 0x08#5, niWrite := 0x09#5 }
  | .v2 => { read := 0x0#5, write := 0x1#5, niRead := 0x2#5, niWrite := 0x3#5, rmwBits := 0x4#5, rmwSum := 0x5#5 }

/-! ## The Header Codec -/

/-- `Classify(ver, type_raw)` (R91, R69). -/
def classify (m : Major) (ver : BitVec 4) (raw : BitVec 5) : TxnType :=
  if ver ≠ m.code then .unknown
  else if raw = m.codes.read then .read
  else if raw = m.codes.write then .write
  else if raw = m.codes.niRead then .niRead
  else if raw = m.codes.niWrite then .niWrite
  else if raw = m.codes.rmwBits then .rmwBits
  else if raw = m.codes.rmwSum then .rmwSum
  else .unknown

/-- `DecodeHeader(h)` (R90): what the latches hold after it. Every word decodes. -/
def decodeHeader (m : Major) (w : Word) : TxnHeader where
  hdr := w
  ver := m.layout.ver.cut 4 w
  tid := m.layout.tid.cut 12 w
  wc := m.layout.wc.cut 9 w
  typeRaw := m.layout.typeRaw.cut 5 w
  ttype := classify m (m.layout.ver.cut 4 w) (m.layout.typeRaw.cut 5 w)
  infoIn := m.layout.info.cut 4 w

/-- A transaction header word with every field given, the version too, in the layout of a major version. -/
def buildHeader (m : Major) (ver raw n id info : Word) : Word :=
  m.layout.ver.put ver ||| m.layout.tid.put id ||| m.layout.wc.put n ||| m.layout.typeRaw.put raw ||| m.layout.info.put info

/-- `PackHeader(t_raw, n, id, info)` (R92): the version field is MAJOR. -/
def packHeader (m : Major) (raw n id info : Word) : Word := buildHeader m (m.code.setWidth 32) raw n id info

/-- `ExpectedHeader(t_raw, n, id, info)` (R93): a MAJOR = 1 reply sets the direction bit. -/
def expectedHeader (m : Major) (raw n id info : Word) : Word :=
  match m with
  | .v2 => packHeader .v2 raw n id info
  | .v1 => packHeader .v1 raw n id (0x4#32 ||| (info &&& 0x3#32))

/-! ## Packet header words (R63, R64, R95, R121, R122) -/

/-- The packet type field `w[3:0]`. -/
def packetType (w : Word) : BitVec 4 := pktLayout.ptype.cut 4 w

/-- The packet sequence number `w[23:8]`. -/
def packetSeq (w : Word) : BitVec 16 := pktLayout.seq.cut 16 w

/-- The packet kind a type selects (R64, R122). -/
def packetKind (t : BitVec 4) : PktKind :=
  if t = 0#4 then .control else if t = 1#4 then .status else if t = 2#4 then .resend else .unknown

/-- What the packet latches hold after `LatchPacketHeader` and the classification (R121, R122). -/
def latchedPacket (w : Word) : PacketHeader where
  hdr := w
  seq := packetSeq w
  ptype := packetType w
  kind := packetKind (packetType w)

/-- The fields of a packet header beside its type. -/
def cutPacket (w : Word) : PktFields where
  ver := pktLayout.ver.cut 4 w
  rsvd := pktLayout.rsvd.cut 4 w
  seq := packetSeq w
  byteOrder := pktLayout.byteOrder.cut 4 w

/-- The packet header word with given fields and type. -/
def PktFields.word (p : PktFields) (t : BitVec 4) : Word :=
  pktLayout.ver.put (p.ver.setWidth 32) ||| pktLayout.rsvd.put (p.rsvd.setWidth 32) ||| pktLayout.seq.put (p.seq.setWidth 32) |||
    pktLayout.byteOrder.put (p.byteOrder.setWidth 32) ||| pktLayout.ptype.put (t.setWidth 32)

/-- The assembled word of `PKT.CTRL seq=s`: `{MAJOR, 0x0, s, 0xF, 0x0}` (R78). -/
def controlHeaderWord (m : Major) (seq : BitVec 16) : Word :=
  PktFields.word { ver := m.code, rsvd := 0#4, seq := seq, byteOrder := 0xF#4 } 0#4

/-! ## Transaction header words of the two major versions -/

/-- The fields of a MAJOR = 2 header word (R65). -/
def cutV2 (w : Word) : HdrV2 where
  tid := Major.v2.layout.tid.cut 12 w
  wc := Major.v2.layout.wc.cut 8 w
  info := Major.v2.layout.info.cut 4 w

/-- The fields of a MAJOR = 1 header word (R66). -/
def cutV1 (w : Word) : HdrV1 where
  tid := Major.v1.layout.tid.cut 11 w
  wc := Major.v1.layout.wc.cut 9 w
  info := Major.v1.layout.info.cut 3 w

/-- The MAJOR = 2 header word with given version, type and fields. -/
def HdrV2.word (h : HdrV2) (ver : BitVec 4) (raw : BitVec 5) : Word :=
  buildHeader .v2 (ver.setWidth 32) (raw.setWidth 32) (h.wc.setWidth 32) (h.tid.setWidth 32) (h.info.setWidth 32)

/-- The MAJOR = 1 header word with given version, type and fields. -/
def HdrV1.word (h : HdrV1) (ver : BitVec 4) (raw : BitVec 5) : Word :=
  buildHeader .v1 (ver.setWidth 32) (raw.setWidth 32) (h.wc.setWidth 32) (h.tid.setWidth 32) (h.info.setWidth 32)

/-! ## The decoder -/

/-- Why no instruction can be read from a list of words. No encoding is illegal (R76): only words can be missing. -/
inductive DecodeError where
  /-- There is no word at all to read a header from. -/
  | noHeader
  /-- The header declares a body word that the list does not hold (R165). -/
  | bodyMissing
  deriving DecidableEq, Repr

/-- What a decoder answers: the instruction and the words after it, or why there is none. -/
abbrev Decoded := Except DecodeError (Instr × List Word)

/-- The packet header at `RX[0]` (R64): the instruction is one word, and what follows is not its own. -/
def decodePacket : List Word → Decoded
  | [] => .error .noHeader
  | w :: rest =>
    match packetKind (packetType w) with
    | .control => .ok (.pktCtrl (cutPacket w), rest)
    | .status => .ok (.pktStatus (cutPacket w), rest)
    | .resend => .ok (.pktResend (cutPacket w), rest)
    | .unknown => .ok (.pktUnknown (cutPacket w) (packetType w), rest)

/-- A body of one word: the address (R71). -/
def body1 (f : Word → Instr) : List Word → Decoded
  | a :: rest => .ok (f a, rest)
  | _ => .error .bodyMissing

/-- A body of two words: address, addend (R71). -/
def body2 (f : Word → Word → Instr) : List Word → Decoded
  | a :: b :: rest => .ok (f a b, rest)
  | _ => .error .bodyMissing

/-- A body of three words: address, AND term, OR term (R71). -/
def body3 (f : Word → Word → Word → Instr) : List Word → Decoded
  | a :: b :: c :: rest => .ok (f a b c, rest)
  | _ => .error .bodyMissing

/-- A body of an address and `n` data words (R71). -/
def bodyData (n : Nat) (f : Word → List Word → Instr) : List Word → Decoded
  | a :: rest => if n ≤ rest.length then .ok (f a (rest.take n), rest.drop n) else .error .bodyMissing
  | _ => .error .bodyMissing

/-- One transaction when MAJOR = 2. -/
def decodeTxnV2 : List Word → Decoded
  | [] => .error .noHeader
  | w :: body =>
    match (decodeHeader .v2 w).ttype with
    | .read => body1 (.readV2 (cutV2 w)) body
    | .write => bodyData (cutV2 w).wc.toNat (.writeV2 (cutV2 w)) body
    | .niRead => body1 (.niReadV2 (cutV2 w)) body
    | .niWrite => bodyData (cutV2 w).wc.toNat (.niWriteV2 (cutV2 w)) body
    | .rmwBits => body3 (.rmwBitsV2 (cutV2 w)) body
    | .rmwSum => body2 (.rmwSumV2 (cutV2 w)) body
    | .unknown => .ok (.unknownV2 (cutV2 w) (Major.v2.layout.ver.cut 4 w) (Major.v2.layout.typeRaw.cut 4 w), body)

/-- One transaction when MAJOR = 1. -/
def decodeTxnV1 : List Word → Decoded
  | [] => .error .noHeader
  | w :: body =>
    match (decodeHeader .v1 w).ttype with
    | .read => body1 (.readV1 (cutV1 w)) body
    | .write => bodyData (cutV1 w).wc.toNat (.writeV1 (cutV1 w)) body
    | .niRead => body1 (.niReadV1 (cutV1 w)) body
    | .niWrite => bodyData (cutV1 w).wc.toNat (.niWriteV1 (cutV1 w)) body
    | .rmwBits => body3 (.rmwBitsV1 (cutV1 w)) body
    | .rmwSum => body2 (.rmwSumV1 (cutV1 w)) body
    | .unknown => .ok (.unknownV1 (cutV1 w) (Major.v1.layout.ver.cut 4 w) (Major.v1.layout.typeRaw.cut 5 w), body)

/-- The decoder: total on every list of words, by the sub-table the reader is in (R77). -/
def decode : Table → List Word → Decoded
  | .packet, ws => decodePacket ws
  | .txnV2, ws => decodeTxnV2 ws
  | .txnV1, ws => decodeTxnV1 ws

/-! ## The encoder -/

/-- The header word of an instruction, from the layouts and codes of R63 and R65 to R68. -/
def headerWord : Instr → Word
  | .pktCtrl p => p.word 0#4
  | .pktStatus p => p.word 1#4
  | .pktResend p => p.word 2#4
  | .pktUnknown p t => p.word t
  | .readV2 h _ => h.word 2#4 Major.v2.codes.read
  | .writeV2 h _ _ => h.word 2#4 Major.v2.codes.write
  | .niReadV2 h _ => h.word 2#4 Major.v2.codes.niRead
  | .niWriteV2 h _ _ => h.word 2#4 Major.v2.codes.niWrite
  | .rmwBitsV2 h _ _ _ => h.word 2#4 Major.v2.codes.rmwBits
  | .rmwSumV2 h _ _ => h.word 2#4 Major.v2.codes.rmwSum
  | .unknownV2 h ver raw => h.word ver (raw.setWidth 5)
  | .readV1 h _ => h.word 1#4 Major.v1.codes.read
  | .writeV1 h _ _ => h.word 1#4 Major.v1.codes.write
  | .rmwBitsV1 h _ _ _ => h.word 1#4 Major.v1.codes.rmwBits
  | .rmwSumV1 h _ _ => h.word 1#4 Major.v1.codes.rmwSum
  | .niReadV1 h _ => h.word 1#4 Major.v1.codes.niRead
  | .niWriteV1 h _ _ => h.word 1#4 Major.v1.codes.niWrite
  | .unknownV1 h ver raw => h.word ver raw

/-- The body words of an instruction, in the order of R71. -/
def bodyWords : Instr → List Word
  | .pktCtrl _ => []
  | .pktStatus _ => []
  | .pktResend _ => []
  | .pktUnknown _ _ => []
  | .readV2 _ a => [a]
  | .writeV2 _ a d => a :: d
  | .niReadV2 _ a => [a]
  | .niWriteV2 _ a d => a :: d
  | .rmwBitsV2 _ a x y => [a, x, y]
  | .rmwSumV2 _ a x => [a, x]
  | .unknownV2 _ _ _ => []
  | .readV1 _ a => [a]
  | .writeV1 _ a d => a :: d
  | .rmwBitsV1 _ a x y => [a, x, y]
  | .rmwSumV1 _ a x => [a, x]
  | .niReadV1 _ a => [a]
  | .niWriteV1 _ a d => a :: d
  | .unknownV1 _ _ _ => []

/-- The words of an instruction. -/
def encode (i : Instr) : List Word := headerWord i :: bodyWords i

/-- `TxnLen(type, wc)` of R73, in words. -/
def txnLen (t : TxnType) (wc : Nat) : Nat :=
  match t with
  | .read => 2
  | .niRead => 2
  | .write => 2 + wc
  | .niWrite => 2 + wc
  | .rmwBits => 4
  | .rmwSum => 3
  | .unknown => 1

/-- The length of an instruction by its row (R61, R73), in words: read from the type and the header alone. -/
def instrLen : Instr → Nat
  | .pktCtrl _ => 1
  | .pktStatus _ => 1
  | .pktResend _ => 1
  | .pktUnknown _ _ => 1
  | .readV2 h _ => txnLen .read h.wc.toNat
  | .writeV2 h _ _ => txnLen .write h.wc.toNat
  | .niReadV2 h _ => txnLen .niRead h.wc.toNat
  | .niWriteV2 h _ _ => txnLen .niWrite h.wc.toNat
  | .rmwBitsV2 h _ _ _ => txnLen .rmwBits h.wc.toNat
  | .rmwSumV2 h _ _ => txnLen .rmwSum h.wc.toNat
  | .unknownV2 h _ _ => txnLen .unknown h.wc.toNat
  | .readV1 h _ => txnLen .read h.wc.toNat
  | .writeV1 h _ _ => txnLen .write h.wc.toNat
  | .rmwBitsV1 h _ _ _ => txnLen .rmwBits h.wc.toNat
  | .rmwSumV1 h _ _ => txnLen .rmwSum h.wc.toNat
  | .niReadV1 h _ => txnLen .niRead h.wc.toNat
  | .niWriteV1 h _ _ => txnLen .niWrite h.wc.toNat
  | .unknownV1 h _ _ => txnLen .unknown h.wc.toNat

/-! ## The host's question -/

/-- The longest instruction is 2 + 511 words (R61): 512 words after its header. -/
def longestBody : Nat := 512

/-- The sub-table a word of opcode_table.json belongs to, by how many bits its row gives: the packet rows give bits up to
23, the transaction rows bits up to 31, and a transaction header is read under the MAJOR its version field names
(MAJOR = 2 for any other version, where it is UNKNOWN, R69). DESIGN CHOICE (entry 13): the block itself knows the
sub-table from where the word stands and from its own MAJOR. -/
def tableOfWord (nbits w : Nat) : Table :=
  if nbits ≤ 24 then .packet
  else if Major.v1.layout.ver.cut 4 (BitVec.ofNat 32 w) = Major.v1.code then .txnV1
  else .txnV2

/-- The words an instruction of the opcode table is laid out as, its operand words zero. -/
def tableWords (nbits w : Nat) : List Word :=
  if nbits ≤ 24 then [BitVec.ofNat 32 w] else BitVec.ofNat 32 w :: List.replicate longestBody 0#32

/-- The instruction the decoder reads from an instruction whose bits are `w`, as opcode_table.json numbers them. -/
def decodeTableWord (nbits w : Nat) : Option Instr :=
  match decode (tableOfWord nbits w) (tableWords nbits w) with
  | .ok (i, _) => some i
  | .error _ => none

end Sys2Proof
end

