-- ==== Sys2Proof/Machine/State.lean ====
section
/-! DEFINITION. The state of the block as plain data (10_state.md), its faults and refusals, and the state after reset
(10_state.md R30). -/

namespace Sys2Proof.Machine

/-- Why a step stops with a fault. -/
inductive Fault where
  /-- F1, `MalformedBody(pc)` (60_exceptions.md R165): raised where the next transaction of a control packet needs a word
  that the buffer does not hold; `pc` is the index of the missing word. Safe: the source calls the behaviour undefined,
  and the model gives no state after it. -/
  | malformedBody (pc : Nat)
  deriving DecidableEq, Repr

/-- Why a step is refused. -/
inductive Refusal where
  /-- An instruction that has no meaning in the model; no arm of `exec` answers it. Safe. -/
  | notModelled (mnemonic : String)
  /-- F2, N = 0 at `start` (R131, R166: "A model refuses both"): raised by the first step of an invocation. Safe. -/
  | emptyBuffer
  /-- F2, N > RX_BUF_WORDS at `start` (R131, R166): raised by the first step of an invocation. Safe. -/
  | oversizeBuffer
  deriving DecidableEq, Repr

/-- "The block is either idle or busy" (R178). -/
inductive Phase where
  | idle
  | busy
  deriving DecidableEq, Repr

/-- The one-shot reply delay (R24): `PendingDelay(seconds)` or `Consumed`. -/
inductive Delay where
  | pending (seconds : Nat)
  | consumed
  deriving DecidableEq, Repr

/-- One pair of the reply history (R20). -/
structure HistEntry where
  key : BitVec 16
  words : List Word
  deriving DecidableEq, Repr

/-- The register file: the listed words, addresses strictly rising, no word equal to `Config.regInit` of its address
(`Memory.wf`); an unlisted word reads as `Config.regInit` of its address. -/
abbrev Memory := List WordCell

/-- The state of one responder (10_state.md R11 to R25, 42_packets.md R132). -/
structure State where
  /-- MAJOR, MINOR, ADDR_MASK, RX_BUF_WORDS and the configured delay (R14, R6). -/
  cfg : Config
  /-- `RX` (R16): the words the transport has written, from index 0. -/
  rx : List Word
  /-- `byte_count[31:0]` of the pending or running invocation (R132). -/
  byteCount : BitVec 32
  /-- `start`: an invocation is asked for and has not begun (R132). -/
  start : Bool
  /-- Idle or busy (R132, R178). -/
  phase : Phase
  /-- `done`: an invocation has ended and none has been started since (R132). -/
  done : Bool
  /-- `N`, the number of words the invocation scans (R15). -/
  n : Nat
  /-- `pc`, the scan index (R13). -/
  pc : Nat
  /-- The packet latches `pkt_hdr`, `pkt_seq`, `pkt_type`, `pkt_kind` (R12). -/
  pkt : PacketHeader
  /-- The transaction latches `hdr`, `ver`, `tid`, `wc`, `type_raw`, `type`, `info_in` (R12). Like every latch they keep their
  value until a rule writes them: DESIGN CHOICE, unsafe (entry 19). -/
  txn : TxnHeader
  /-- The latch `addr` (R12). -/
  addr : Word
  /-- The latch `expected` (R12). -/
  expected : Word
  /-- `reply` (R17). -/
  reply : List Word
  /-- `REG` (R19). -/
  reg : Memory
  /-- `reply_history` (R20), oldest first. -/
  history : List HistEntry
  /-- `traffic` (R21), oldest first. -/
  traffic : Vector (BitVec 8) 16
  /-- `recv_ring` (R22), oldest first. -/
  recvRing : Vector Word 4
  /-- `sent_ring` (R22), oldest first. -/
  sentRing : Vector Word 4
  /-- `last_ctrl_hdr` (R23). -/
  lastCtrlHdr : Word
  /-- `delay` (R24). -/
  delay : Delay
  deriving DecidableEq, Repr

/-- The state after reset with configuration `c` (R30, R190, R191). The latches, `pc`, `N` and the handshake bits have
"no value" there; the values here are DESIGN CHOICES that no rule reads before it writes them (entries 5 and 6). -/
def State.resetWith (c : Config) : State where
  cfg := c
  rx := []
  byteCount := 0#32
  start := false
  phase := .idle
  done := false
  n := 0
  pc := 0
  pkt := { hdr := 0#32, seq := 0#16, ptype := 0#4, kind := .unknown }
  txn := { hdr := 0#32, ver := 0#4, tid := 0#12, wc := 0#9, typeRaw := 0#5, ttype := .unknown, infoIn := 0#4 }
  addr := 0#32
  expected := 0#32
  reply := []
  reg := []
  history := []
  traffic := Vector.replicate 16 0#8
  recvRing := Vector.replicate 4 0#32
  sentRing := Vector.replicate 4 0#32
  lastCtrlHdr := controlHeaderWord c.major 0#16
  delay := .pending c.replyDelayInit

/-- The machine right after reset, with the configuration `Config.reference` (entry 2). -/
def State.reset : State := State.resetWith Config.reference

end Sys2Proof.Machine
end

