-- ==== Sys2Proof/Machine/Ops.lean ====
section
/-! DEFINITION. The named operations over memory, buffers, latches, rings and histories: 20_memory.md R40 to R47,
10_state.md R13 to R24, 41_transactions.md R108, 42_packets.md R120 to R128, 43_history_status.md R140 to R144.
TAKING AN EXCEPTION has no operation here: the block has no trap entry and no return from one (R160, R170, R171); its
error conditions are answered in the reply (R161), by the meanings of UNKNOWN, PKT.UNKNOWN and PKT.RESEND. -/

namespace Sys2Proof.Machine

/-! ## The register file as a list -/

/-- The word at an index: the listed one, else what reset left there (R30, R55.4). -/
def Memory.read : Memory → Nat → Word
  | [], a => Config.regInit a
  | (b, v) :: m, a => if a = b then v else Memory.read m a

/-- List a word at its place in rising order of the indices. -/
def Memory.insert : Memory → Nat → Word → Memory
  | [], a, v => [(a, v)]
  | (b, w) :: m, a, v =>
    if a < b then (a, v) :: (b, w) :: m
    else if a = b then (a, v) :: m
    else (b, w) :: Memory.insert m a v

/-- List no word at an index. -/
def Memory.erase (m : Memory) (a : Nat) : Memory := m.filter fun c => decide (c.1 ≠ a)

/-- Write a word: what an unlisted index reads as anyway is not listed, so that equal contents are equal data. -/
def Memory.write (m : Memory) (a : Nat) (v : Word) : Memory :=
  if v = Config.regInit a then m.erase a else m.insert a v

/-- The canonical form from an index on: strictly rising, no word equal to what an unlisted index reads as. -/
def Memory.wfFrom : Nat → Memory → Bool
  | _, [] => true
  | lo, (a, v) :: m => decide (lo ≤ a) && decide (v ≠ Config.regInit a) && Memory.wfFrom (a + 1) m

/-- The canonical form of the register file. -/
def Memory.wf (m : Memory) : Bool := Memory.wfFrom 0 m

/-! ## The register file of the block -/

/-- `EA(a) = a & ADDR_MASK` (R40). -/
def State.ea (s : State) (a : Word) : Nat := (a &&& s.cfg.addrMask).toNat

/-- `MemRead(a, 1) = REG[EA(a)]` (R41). -/
def State.memRead (s : State) (a : Word) : Word := s.reg.read (s.ea a)

/-- `MemWrite(a, 1, v)`: `REG[EA(a)] <- v` (R42). -/
def State.memWrite (s : State) (a v : Word) : State := { s with reg := s.reg.write (s.ea a) v }

/-- What `RmwBits` writes: `(old & andTerm) | orTerm` (R45). -/
def rmwBitsNew (old andTerm orTerm : Word) : Word := (old &&& andTerm) ||| orTerm

/-- What `RmwSum` writes: `(old + addend) mod 2^32` (R46). -/
def rmwSumNew (old addend : Word) : Word := old + addend

/-- `RmwResult(old, new)` (R47): the new value when MAJOR = 1, the old one when MAJOR ≥ 2. -/
def rmwResult (m : Major) (old new : Word) : Word :=
  match m with
  | .v1 => new
  | .v2 => old

/-! ## The inbound buffer (R16, R62) -/

/-- `RX[i]`: the word the transport wrote, else the free value of a word it never wrote (R30; entry 4). -/
def State.rxWord (s : State) (i : Nat) : Word := s.rx.getD i (Config.rxUnwritten i)

/-- The words `Fetch` can still give: `RX[pc .. N − 1]` (R62). -/
def State.window (s : State) : List Word := (List.range (s.n - s.pc)).map fun k => s.rxWord (s.pc + k)

/-- `k` calls of `Fetch` have moved the scan index by `k` (R13, R62). -/
def State.advance (s : State) (k : Nat) : State := { s with pc := s.pc + k }

/-! ## Latches and the reply buffer -/

/-- `LatchPacketHeader` and the classification write the packet latches (R121, R122). -/
def State.latchPacket (s : State) (w : Word) : State := { s with pkt := latchedPacket w }

/-- `DecodeHeader` writes the transaction latches "and nothing else" (R90). -/
def State.latchTxn (s : State) (t : TxnHeader) : State := { s with txn := t }

/-- `addr <- Fetch()` (R101 to R106). -/
def State.latchAddr (s : State) (a : Word) : State := { s with addr := a }

/-- `expected <- …` (R101 to R107). -/
def State.latchExpected (s : State) (e : Word) : State := { s with expected := e }

/-- `Emit` of one word after another (R17): `reply <- reply ++ ws`. -/
def State.emit (s : State) (ws : List Word) : State := { s with reply := s.reply ++ ws }

/-- The whole reply buffer is replaced by a copy (R126). -/
def State.replaceReply (s : State) (ws : List Word) : State := { s with reply := ws }

/-- `last_ctrl_hdr <- w` (R124). -/
def State.recordCtrl (s : State) (w : Word) : State := { s with lastCtrlHdr := w }

/-! ## Rings and the reply history -/

/-- `RingPush(r, v)` (R140): the oldest entry is dropped, `v` is the newest. -/
def ringPush {α : Type} {n : Nat} (r : Vector α (n + 1)) (v : α) : Vector α (n + 1) :=
  ⟨⟨r.toList.tail ++ [v]⟩, by simp⟩

/-- `RingPush(traffic, code)` (R124 to R127). -/
def State.pushTraffic (s : State) (code : BitVec 8) : State := { s with traffic := ringPush s.traffic code }

/-- `RecordHeaders()` (R108). -/
def State.recordHeaders (s : State) : State :=
  { s with recvRing := ringPush s.recvRing s.pkt.hdr, sentRing := ringPush s.sentRing s.expected }

/-- REPLY_HISTORY_DEPTH (R6). -/
def replyHistoryDepth : Nat := 5

/-- `HistoryStore(key, words)` on the list of pairs (R143). -/
def historyPush (h : List HistEntry) (key : BitVec 16) (words : List Word) : List HistEntry :=
  let h' := h ++ [HistEntry.mk key words]
  if replyHistoryDepth < h'.length then h'.tail else h'

/-- `HistoryLookup(key)` on the list of pairs (R144): the newest pair with the key. -/
def historyFind (h : List HistEntry) (key : BitVec 16) : Option (List Word) :=
  (h.reverse.find? fun e => e.key == key).map HistEntry.words

/-- `HistoryStore(key, words)` (R143). -/
def State.historyStore (s : State) (key : BitVec 16) (words : List Word) : State :=
  { s with history := historyPush s.history key words }

/-- `HistoryLookup(key)` (R144). It changes nothing. -/
def State.historyLookup (s : State) (key : BitVec 16) : Option (List Word) := historyFind s.history key

/-! ## The start and the end of an invocation -/

/-- The delay after `ConsumeDelay()` (R128): the wait changes no word. -/
def Delay.afterFirst : Delay → Delay
  | .pending _ => .consumed
  | .consumed => .consumed

/-- `ConsumeDelay()` (R128). -/
def State.consumeDelay (s : State) : State := { s with delay := s.delay.afterFirst }

/-- `N = floor(byteCount / 4)` of the pending invocation (R15). -/
def State.requestedWords (s : State) : Nat := s.byteCount.toNat / 4

/-- Steps 1 and 2 of R120: the reply buffer is cleared, `N` and `pc` are set; `start` has been taken and the block is
busy (R132; entry 6). The packet and transaction latches keep what earlier invocations left in them until a rule writes them:
DESIGN CHOICE, unsafe (entry 19); R12 gives an unwritten latch no defined value, and no rule reads it. -/
def State.openInvocation (s : State) : State :=
  { s with reply := [], n := s.requestedWords, pc := 0, start := false, phase := .busy, done := false }

/-- The invocation has ended (R130, R132): the block is idle and `done` is raised. `pc`, `N` and the latches, dead from
here on (R130), keep their values: DESIGN CHOICE, unsafe (entry 19). -/
def State.closeInvocation (s : State) : State := { s with phase := .idle, done := true }

/-- Steps 5 and 6 of R120 and the end of the invocation (R128, R129, R130). -/
def State.finish (s : State) : State :=
  ((s.consumeDelay).historyStore s.pkt.seq s.reply).closeInvocation

end Sys2Proof.Machine
end

