-- ==== Sys2Proof/Machine/Operands.lean ====
section
/-! DEFINITION. The operand forms: what a row's header fields are as latches (30_encoding.md R74: zero-extended), the
addresses of the words of a block (20_memory.md R44), and the two forms of a block access. -/

namespace Sys2Proof.Machine

/-! ## Header fields as latches (R12, R74, R90) -/

/-- What the transaction latches hold for a MAJOR = 2 row with the given version, type field and type. -/
def latchV2 (h : HdrV2) (ver : BitVec 4) (raw : BitVec 5) (t : TxnType) : TxnHeader where
  hdr := h.word ver raw
  ver := ver
  tid := h.tid
  wc := h.wc.setWidth 9
  typeRaw := raw
  ttype := t
  infoIn := h.info

/-- What the transaction latches hold for a MAJOR = 1 row with the given version, type field and type. -/
def latchV1 (h : HdrV1) (ver : BitVec 4) (raw : BitVec 5) (t : TxnType) : TxnHeader where
  hdr := h.word ver raw
  ver := ver
  tid := h.tid.setWidth 12
  wc := h.wc
  typeRaw := raw
  ttype := t
  infoIn := h.info.setWidth 4

/-! ## Block addresses and block accesses (R44, R52) -/

/-- The address of the i-th word of an incrementing block, before the mask: `(addr + i) mod 2^32` (R44). -/
def blockAddr (base : Word) (i : Nat) : Word := base + BitVec.ofNat 32 i

/-- The words an incrementing read of `k` words gives, in ascending order of i (R101). -/
def State.readBlock (s : State) (base : Word) (k : Nat) : List Word :=
  (List.range k).map fun i => s.memRead (blockAddr base i)

/-- The words a non-incrementing read of `k` words gives (R102). -/
def State.readSame (s : State) (a : Word) (k : Nat) : List Word :=
  (List.range k).map fun _ => s.memRead a

/-- An incrementing write of the words `ds`, the first of them the i-th of its block (R103). -/
def State.writeBlock (s : State) (base : Word) (i : Nat) : List Word → State
  | [] => s
  | d :: ds => State.writeBlock (s.memWrite (blockAddr base i) d) base (i + 1) ds

/-- A non-incrementing write of the words `ds` (R104). -/
def State.writeSame (s : State) (a : Word) : List Word → State
  | [] => s
  | d :: ds => State.writeSame (s.memWrite a d) a ds

end Sys2Proof.Machine
end

