-- ==== Sys2Proof/Machine/Flags.lean ====
section
/-! DEFINITION. The block has no status flags, condition codes or predicates (10_state.md R26); no operation leaves a carry,
zero or overflow. What stands in their place is computed here: the info code and the word count field of a reply header
(30_encoding.md R70, R72), and the reply header itself. -/

namespace Sys2Proof.Machine

/-- The info code of a good reply (R70). -/
def infoGood : Word := 0#32

/-- INFO_UNKNOWN, the info code of the reply to an UNKNOWN transaction (R6, R70, D16). -/
def infoUnknown : Word := 1#32

/-- The word count field of a write's reply (R72, R103, R104): 0 when MAJOR = 1, the true count when MAJOR ≥ 2. -/
def writeReplyCount (m : Major) (wc : BitVec 9) : Word :=
  match m with
  | .v1 => 0#32
  | .v2 => wc.setWidth 32

/-- `ExpectedHeader(type_raw, n, tid, info)` from the transaction latches (R93, R101 to R107). -/
def replyHeader (m : Major) (t : TxnHeader) (n info : Word) : Word :=
  expectedHeader m (t.typeRaw.setWidth 32) n (t.tid.setWidth 32) info

/-- `expected <- ExpectedHeader(type_raw, n, tid, info); Emit(expected)` (R101 to R107). -/
def State.respond (s : State) (n info : Word) : State :=
  (s.latchExpected (replyHeader s.cfg.major s.txn n info)).emit [replyHeader s.cfg.major s.txn n info]

end Sys2Proof.Machine
end

