-- ==== Sys2Proof/Machine/Packets.lean ====
section
/-! DEFINITION. The meanings of the four packet kinds (42_packets.md R121, R122, R124 to R127) and the status reply
(43_history_status.md R150 to R154). Each meaning is step 3 and step 4 of R120 for its kind: the header word is latched,
then the kind's own effect. Steps 1 and 2 are `State.openInvocation`, steps 5 and 6 `State.finish`; the loop of R124 over
the transactions is the sequencer's (Machine/Sequence.lean), one transaction a step (entry 1). -/

namespace Sys2Proof.Machine

/-- The traffic codes of R21 and R64. -/
def trafficControl : BitVec 8 := 2#8
/-- PKT.STATUS. -/
def trafficStatus : BitVec 8 := 3#8
/-- PKT.RESEND. -/
def trafficResend : BitVec 8 := 4#8
/-- PKT.UNKNOWN. -/
def trafficUnknown : BitVec 8 := 5#8

/-- Step 3 of R120: `Fetch` of word 0 and the packet latches (R121, R122). -/
def State.takeHeader (s : State) (w : Word) : State := (s.advance 1).latchPacket w

/-- Status word 3 (R151): the last-seen control header with its sequence number incremented modulo 2^16. -/
def nextControlHeader (lastCtrl : Word) : Word :=
  (lastCtrl &&& 0xFF0000FF#32) ||| ((packetSeq lastCtrl + 1#16).setWidth 32 <<< 8)

/-- Four traffic events in a word, the oldest in the most significant byte (R152). -/
def packEvents (a b c d : BitVec 8) : Word :=
  (a.setWidth 32 <<< 24) ||| (b.setWidth 32 <<< 16) ||| (c.setWidth 32 <<< 8) ||| d.setWidth 32

/-- Status words 4 to 7 (R152). -/
def trafficWords (t : Vector (BitVec 8) 16) : List Word :=
  [packEvents t[0] t[1] t[2] t[3], packEvents t[4] t[5] t[6] t[7],
    packEvents t[8] t[9] t[10] t[11], packEvents t[12] t[13] t[14] t[15]]

/-- `StatusReply()` (R150, R153, R154), 16 words from the state as it stands when the packet is classified. -/
def State.statusReply (s : State) : List Word :=
  [s.pkt.hdr, BitVec.ofNat 32 (4 * s.cfg.rxBufWords), BitVec.ofNat 32 replyHistoryDepth, nextControlHeader s.lastCtrlHdr]
    ++ trafficWords s.traffic ++ s.recvRing.toList ++ s.sentRing.toList

/-- What a resend packet does to the reply buffer (R126): a hit replaces the whole buffer, a miss leaves it empty as
step 1 of R120 left it. -/
def State.resendStored (s : State) : State :=
  match s.historyLookup s.pkt.seq with
  | some ws => s.replaceReply ws
  | none => s

/-- PKT.CTRL (R124), up to its transactions. -/
def execPktCtrl (p : PktFields) (s : State) : Host.Outcome State Fault Refusal :=
  let w := headerWord (.pktCtrl p)
  .next ((((s.takeHeader w).emit [w]).recordCtrl w).pushTraffic trafficControl)

/-- PKT.STATUS (R125): the reply is built first, the code pushed after. -/
def execPktStatus (p : PktFields) (s : State) : Host.Outcome State Fault Refusal :=
  let s1 := s.takeHeader (headerWord (.pktStatus p))
  .next ((s1.emit s1.statusReply).pushTraffic trafficStatus)

/-- PKT.RESEND (R126). -/
def execPktResend (p : PktFields) (s : State) : Host.Outcome State Fault Refusal :=
  .next ((s.takeHeader (headerWord (.pktResend p))).resendStored.pushTraffic trafficResend)

/-- PKT.UNKNOWN (R127). -/
def execPktUnknown (p : PktFields) (t : BitVec 4) (s : State) : Host.Outcome State Fault Refusal :=
  .next ((s.takeHeader (headerWord (.pktUnknown p t))).pushTraffic trafficUnknown)

end Sys2Proof.Machine
end

