-- ==== Sys2Proof/Machine/Transactions.lean ====
section
/-! DEFINITION. The Transaction Executor (41_transactions.md): the seven handlers of R101 to R107 over the latches, each
followed by `RecordHeaders` (R100, R108), and the meaning of each of the fourteen transaction rows. The handlers read
MAJOR from the state, as the rules do. A meaning takes the body words from the instruction: the decoder has fetched them
(Machine/Sequence.lean), and the meaning moves `pc` past them. -/

namespace Sys2Proof.Machine

/-- The header word and `k` body words have been fetched, and the header is decoded (R100, R90). -/
def State.takeTxn (s : State) (t : TxnHeader) (k : Nat) : State := (s.advance (1 + k)).latchTxn t

/-- `ExecRead()` and `RecordHeaders()` (R101, R108). -/
def State.doRead (s : State) (t : TxnHeader) (addr : Word) : State :=
  let s1 := ((s.takeTxn t 1).latchAddr addr).respond (t.wc.setWidth 32) infoGood
  (s1.emit (s1.readBlock addr t.wc.toNat)).recordHeaders

/-- `ExecNiRead()` and `RecordHeaders()` (R102, R108). -/
def State.doNiRead (s : State) (t : TxnHeader) (addr : Word) : State :=
  let s1 := ((s.takeTxn t 1).latchAddr addr).respond (t.wc.setWidth 32) infoGood
  (s1.emit (s1.readSame addr t.wc.toNat)).recordHeaders

/-- `ExecWrite()` and `RecordHeaders()` (R103, R108). -/
def State.doWrite (s : State) (t : TxnHeader) (addr : Word) (data : List Word) : State :=
  let s1 := ((s.takeTxn t (1 + data.length)).latchAddr addr).writeBlock addr 0 data
  (s1.respond (writeReplyCount s.cfg.major t.wc) infoGood).recordHeaders

/-- `ExecNiWrite()` and `RecordHeaders()` (R104, R108). -/
def State.doNiWrite (s : State) (t : TxnHeader) (addr : Word) (data : List Word) : State :=
  let s1 := ((s.takeTxn t (1 + data.length)).latchAddr addr).writeSame addr data
  (s1.respond (writeReplyCount s.cfg.major t.wc) infoGood).recordHeaders

/-- The common end of the two rmw handlers: the new word is written, the reply header with word count 1 and the result
word are emitted (R105, R106, R47), and the headers recorded (R108). -/
def State.rmwEnd (s : State) (addr old new : Word) : State :=
  (((s.memWrite addr new).respond 1#32 infoGood).emit [rmwResult s.cfg.major old new]).recordHeaders

/-- `ExecRmwBits()` and `RecordHeaders()` (R105, R45, R108). -/
def State.doRmwBits (s : State) (t : TxnHeader) (addr andTerm orTerm : Word) : State :=
  ((s.takeTxn t 3).latchAddr addr).rmwEnd addr (s.memRead addr) (rmwBitsNew (s.memRead addr) andTerm orTerm)

/-- `ExecRmwSum()` and `RecordHeaders()` (R106, R46, R108). -/
def State.doRmwSum (s : State) (t : TxnHeader) (addr addend : Word) : State :=
  ((s.takeTxn t 2).latchAddr addr).rmwEnd addr (s.memRead addr) (rmwSumNew (s.memRead addr) addend)

/-- `ExecUnknown()` and `RecordHeaders()` (R107, R108): one error header, the register file untouched. -/
def State.doUnknown (s : State) (t : TxnHeader) : State :=
  ((s.takeTxn t 0).respond 0#32 infoUnknown).recordHeaders

/-! ## The rows of the table when MAJOR = 2 -/

/-- READ (R101, R67). -/
def execReadV2 (h : HdrV2) (addr : Word) (s : State) : Host.Outcome State Fault Refusal :=
  .next (s.doRead (latchV2 h 2#4 Major.v2.codes.read .read) addr)

/-- WRITE (R103, R67). -/
def execWriteV2 (h : HdrV2) (addr : Word) (data : List Word) (s : State) : Host.Outcome State Fault Refusal :=
  .next (s.doWrite (latchV2 h 2#4 Major.v2.codes.write .write) addr data)

/-- NI_READ (R102, R67). -/
def execNiReadV2 (h : HdrV2) (addr : Word) (s : State) : Host.Outcome State Fault Refusal :=
  .next (s.doNiRead (latchV2 h 2#4 Major.v2.codes.niRead .niRead) addr)

/-- NI_WRITE (R104, R67). -/
def execNiWriteV2 (h : HdrV2) (addr : Word) (data : List Word) (s : State) : Host.Outcome State Fault Refusal :=
  .next (s.doNiWrite (latchV2 h 2#4 Major.v2.codes.niWrite .niWrite) addr data)

/-- RMW_BITS (R105, R67). -/
def execRmwBitsV2 (h : HdrV2) (addr andTerm orTerm : Word) (s : State) : Host.Outcome State Fault Refusal :=
  .next (s.doRmwBits (latchV2 h 2#4 Major.v2.codes.rmwBits .rmwBits) addr andTerm orTerm)

/-- RMW_SUM (R106, R67). -/
def execRmwSumV2 (h : HdrV2) (addr addend : Word) (s : State) : Host.Outcome State Fault Refusal :=
  .next (s.doRmwSum (latchV2 h 2#4 Major.v2.codes.rmwSum .rmwSum) addr addend)

/-- UNKNOWN (R107, R67, R69). -/
def execUnknownV2 (h : HdrV2) (ver raw : BitVec 4) (s : State) : Host.Outcome State Fault Refusal :=
  .next (s.doUnknown (latchV2 h ver (raw.setWidth 5) .unknown))

/-! ## The rows of the table when MAJOR = 1 -/

/-- READ (R101, R68). -/
def execReadV1 (h : HdrV1) (addr : Word) (s : State) : Host.Outcome State Fault Refusal :=
  .next (s.doRead (latchV1 h 1#4 Major.v1.codes.read .read) addr)

/-- WRITE (R103, R68). -/
def execWriteV1 (h : HdrV1) (addr : Word) (data : List Word) (s : State) : Host.Outcome State Fault Refusal :=
  .next (s.doWrite (latchV1 h 1#4 Major.v1.codes.write .write) addr data)

/-- RMW_BITS (R105, R68). -/
def execRmwBitsV1 (h : HdrV1) (addr andTerm orTerm : Word) (s : State) : Host.Outcome State Fault Refusal :=
  .next (s.doRmwBits (latchV1 h 1#4 Major.v1.codes.rmwBits .rmwBits) addr andTerm orTerm)

/-- RMW_SUM (R106, R68). -/
def execRmwSumV1 (h : HdrV1) (addr addend : Word) (s : State) : Host.Outcome State Fault Refusal :=
  .next (s.doRmwSum (latchV1 h 1#4 Major.v1.codes.rmwSum .rmwSum) addr addend)

/-- NI_READ (R102, R68). -/
def execNiReadV1 (h : HdrV1) (addr : Word) (s : State) : Host.Outcome State Fault Refusal :=
  .next (s.doNiRead (latchV1 h 1#4 Major.v1.codes.niRead .niRead) addr)

/-- NI_WRITE (R104, R68). -/
def execNiWriteV1 (h : HdrV1) (addr : Word) (data : List Word) (s : State) : Host.Outcome State Fault Refusal :=
  .next (s.doNiWrite (latchV1 h 1#4 Major.v1.codes.niWrite .niWrite) addr data)

/-- UNKNOWN (R107, R68, R69). -/
def execUnknownV1 (h : HdrV1) (ver : BitVec 4) (raw : BitVec 5) (s : State) : Host.Outcome State Fault Refusal :=
  .next (s.doUnknown (latchV1 h ver raw .unknown))

end Sys2Proof.Machine
end

