-- ==== Sys2Proof/Machine/Dispatch.lean ====
section
/-! DEFINITION. exec: one arm per constructor of Instr, each one direct call of its meaning. -/

namespace Sys2Proof.Machine

def exec (i : Instr) (s : State) : Host.Outcome State Fault Refusal :=
  match i with
  | .pktCtrl p => Sys2Proof.Machine.execPktCtrl p s
  | .pktStatus p => Sys2Proof.Machine.execPktStatus p s
  | .pktResend p => Sys2Proof.Machine.execPktResend p s
  | .pktUnknown p t => Sys2Proof.Machine.execPktUnknown p t s
  | .readV2 h a => Sys2Proof.Machine.execReadV2 h a s
  | .writeV2 h a d => Sys2Proof.Machine.execWriteV2 h a d s
  | .niReadV2 h a => Sys2Proof.Machine.execNiReadV2 h a s
  | .niWriteV2 h a d => Sys2Proof.Machine.execNiWriteV2 h a d s
  | .rmwBitsV2 h a x y => Sys2Proof.Machine.execRmwBitsV2 h a x y s
  | .rmwSumV2 h a x => Sys2Proof.Machine.execRmwSumV2 h a x s
  | .unknownV2 h v r => Sys2Proof.Machine.execUnknownV2 h v r s
  | .readV1 h a => Sys2Proof.Machine.execReadV1 h a s
  | .writeV1 h a d => Sys2Proof.Machine.execWriteV1 h a d s
  | .rmwBitsV1 h a x y => Sys2Proof.Machine.execRmwBitsV1 h a x y s
  | .rmwSumV1 h a x => Sys2Proof.Machine.execRmwSumV1 h a x s
  | .niReadV1 h a => Sys2Proof.Machine.execNiReadV1 h a s
  | .niWriteV1 h a d => Sys2Proof.Machine.execNiWriteV1 h a d s
  | .unknownV1 h v r => Sys2Proof.Machine.execUnknownV1 h v r s

end Sys2Proof.Machine
end

