-- ==== Sys2Proof/Machine/Sequence.lean ====
section
/-! DEFINITION. What the block does next (42_packets.md R120, R124, R131; 60_exceptions.md R165, R166): the judgement of
`start`, the fetch and decoding of the next instruction, the end of the scan. The meanings are not called here. -/

namespace Sys2Proof.Machine

/-- What comes next. -/
inductive NextUp where
  /-- Idle with nothing asked for: nothing happens (R191). -/
  | wait
  /-- The scan is over: steps 5 and 6 of R120 and the end of the invocation. -/
  | finish
  /-- An instruction, and the state it runs in. -/
  | run (i : Instr) (s : State)
  /-- A body word is missing (R165). -/
  | fault (f : Fault)
  /-- The buffer is empty or oversize (R166). -/
  | refuse (r : Refusal)

/-- Fetch and decode at `pc`, by a sub-table. A missing word is the one at the end of the window, index
`pc + len(window)`, which is `N` (R62: "if pc ≥ N then raise MalformedBody(pc)"). -/
def State.fetch (s : State) (t : Table) : NextUp :=
  match decode t s.window with
  | .ok (i, _) => .run i s
  | .error _ => .fault (.malformedBody (s.pc + s.window.length))

/-- The condition under which the scan goes on: a control packet with `pc < N` (R124). -/
def State.scanning (s : State) : Bool := decide (s.pkt.kind = .control) && decide (s.pc < s.n)

/-- What the block does next. F2 is judged at `start`, before anything else (R169). -/
def State.nextUp (s : State) : NextUp :=
  match s.phase with
  | .idle =>
    if s.start then
      if s.requestedWords = 0 then .refuse .emptyBuffer
      else if s.cfg.rxBufWords < s.requestedWords then .refuse .oversizeBuffer
      else s.openInvocation.fetch .packet
    else .wait
  | .busy => if s.scanning then s.fetch s.cfg.major.table else .finish

end Sys2Proof.Machine
end

