-- ==== Sys2Proof/Machine/Step.lean ====
section
/-! DEFINITION. One step: what `State.nextUp` says comes next. -/

namespace Sys2Proof.Machine

/-- One step of the block: nothing while it waits (R191), one instruction of the packet in the buffer (the packet header,
then one transaction a step, R100, R120, R124), or the end of the invocation (R128 to R130). -/
def step (s : State) : Host.Outcome State Fault Refusal :=
  match s.nextUp with
  | .wait => .next s
  | .finish => .next s.finish
  | .run i t => exec i t
  | .fault f => .fault f
  | .refuse r => .refused r

/-- `s` with a packet header word as the packet of a pending invocation (R132). -/
def State.withPacketWord (s : State) (ws : List Word) : State :=
  { s with rx := ws, byteCount := BitVec.ofNat 32 (4 * ws.length), start := true, phase := .idle }

/-- `s` in the scan of a control packet whose next transaction is `ws`: the header at index 0 has been taken, and MAJOR is
the one whose sub-table the row stands in. -/
def State.withTransaction (s : State) (m : Major) (ws : List Word) : State :=
  { s with cfg := { s.cfg with major := m }, rx := s.pkt.hdr :: ws, n := 1 + ws.length, pc := 1, phase := .busy,
           pkt := { s.pkt with kind := .control } }

/-- `s` with an instruction of the opcode table where `step` fetches its next instruction (entry 14). -/
def State.withFetchWord (s : State) (nbits w : Nat) : State :=
  match tableOfWord nbits w with
  | .packet => s.withPacketWord (tableWords nbits w)
  | .txnV2 => s.withTransaction .v2 (tableWords nbits w)
  | .txnV1 => s.withTransaction .v1 (tableWords nbits w)

end Sys2Proof.Machine
end

