-- ==== Sys2Proof/Machine/Invocation.lean ====
section
/-! DEFINITION. One invocation as ONE atomic operation, written from 42_packets.md R120 and R124 and 41_transactions.md
R100: `AnalyzeReceivedAndCreateReply(byteCount)`. `step` (Machine/Step.lean) makes the same run one instruction at a time
(entry 1). -/

namespace Sys2Proof.Machine

/-- Go on after an outcome, if it is a next state. -/
def andThen (o : Host.Outcome State Fault Refusal) (k : State → Host.Outcome State Fault Refusal) :
    Host.Outcome State Fault Refusal :=
  match o with
  | .next s => k s
  | .fault f => .fault f
  | .refused r => .refused r

/-- `ExecuteTransaction()` (R100): one transaction, from its header word to the recording of its headers. -/
def State.executeTransaction (s : State) : Host.Outcome State Fault Refusal :=
  match decode s.cfg.major.table s.window with
  | .ok (i, _) => exec i s
  | .error _ => .fault (.malformedBody (s.pc + s.window.length))

/-- `while pc < N: ExecuteTransaction()` (R124); every transaction moves `pc`, so `N − pc` turns are enough fuel (R210). -/
def State.scanLoop : Nat → State → Host.Outcome State Fault Refusal
  | 0, s => .next s
  | k + 1, s => if s.pc < s.n then andThen s.executeTransaction (State.scanLoop k) else .next s

/-- Step 4 of R120 after the packet meaning: the transactions of a control packet. -/
def State.scanBody (s : State) : Host.Outcome State Fault Refusal :=
  if s.pkt.kind = .control then State.scanLoop (s.n - s.pc) s else .next s

/-- `LatchPacketHeader()` and the four arms of step 4 of R120. -/
def State.executePacket (s : State) : Host.Outcome State Fault Refusal :=
  match decode .packet s.window with
  | .ok (i, _) => exec i s
  | .error _ => .fault (.malformedBody (s.pc + s.window.length))

/-- `AnalyzeReceivedAndCreateReply` (R120) with the precondition of R131, on the words and the byte count the state
holds. -/
def State.invoke (s : State) : Host.Outcome State Fault Refusal :=
  if s.requestedWords = 0 then .refused .emptyBuffer
  else if s.cfg.rxBufWords < s.requestedWords then .refused .oversizeBuffer
  else andThen (andThen s.openInvocation.executePacket State.scanBody) fun t => .next t.finish

end Sys2Proof.Machine
end

