-- ==== Sys2Proof/Machine/Transport.lean ====
section
/-! DEFINITION. The moves of the transport at the ports of 42_packets.md R132. They are no instructions and no steps: the
transport makes them between invocations; a write of `RX` or a `start` that comes while an invocation is asked for or runs is
not accepted (R132, R202; entry 12), and `rst` always is. -/

namespace Sys2Proof.Machine

/-- The block takes a move of the transport: it is idle and no invocation is asked for (R132: busy from `start` to
`done`). -/
def State.ready (s : State) : Bool := decide (s.phase = .idle) && !s.start

/-- The `rx_buf` write port: the words `RX[0 ..]` are written, those above keep what they hold, and nothing is written
beyond the capacity (R16, R132). -/
def State.loadRx (s : State) (ws : List Word) : State :=
  if s.ready then { s with rx := (ws ++ s.rx.drop ws.length).take s.cfg.rxBufWords } else s

/-- `start` with `byte_count` (R132): one invocation is asked for. -/
def State.raiseStart (s : State) (byteCount : BitVec 32) : State :=
  if s.ready then { s with byteCount := byteCount, start := true, done := false } else s

/-- A packet: its words written from index 0, then `start` with four bytes a word (R192). -/
def State.sendPacket (s : State) (ws : List Word) : State := (s.loadRx ws).raiseStart (BitVec.ofNat 32 (4 * ws.length))

/-- `rst` with the configuration inputs (R132, R190): all state to R30, whatever it was. -/
def State.rst (_ : State) (c : Config) : State := State.resetWith c

/-- `reply_len` (R132). -/
def State.replyLen (s : State) : Nat := s.reply.length

end Sys2Proof.Machine
end

