-- ==== Sys2Proof/Safety.lean ====
section
/-! DEFINITION. The terms claims are made in: the frames of the instructions, and the invariants of the block
(10_state.md R29 and the rules each part names). -/

namespace Sys2Proof.Machine

/-! ## Reply header words, bit by bit -/

/-- A MAJOR = 2 reply header (R65, R93): version 2, transaction id, word count, type code, info code. -/
def replyV2 (tid : BitVec 12) (n : BitVec 8) (code info : BitVec 4) : Word := 2#4 ++ tid ++ n ++ code ++ info

/-- A MAJOR = 1 reply header (R66, R93): version 1, transaction id, word count, type code, direction 1, info code. -/
def replyV1 (tid : BitVec 11) (n : BitVec 9) (code : BitVec 5) (info : BitVec 2) : Word :=
  1#4 ++ tid ++ n ++ code ++ 1#1 ++ info

/-! ## Runs of instructions -/

/-- The instructions of a list, one after the other. -/
def execAll : List Instr → State → Host.Outcome State Fault Refusal
  | [], s => .next s
  | i :: is, s => andThen (exec i s) (execAll is)

/-! ## Frames -/

/-- What no transaction changes: everything but `pc`, the transaction latches, `addr`, `expected`, `reply`, `REG` and the
two header rings (the "State written" lines of 41_transactions.md R101 to R108). The packet latches hold the control packet that encloses it. -/
def TxnFrame (s t : State) : Prop :=
  t.cfg = s.cfg ∧ t.rx = s.rx ∧ t.byteCount = s.byteCount ∧ t.start = s.start ∧ t.phase = s.phase ∧ t.done = s.done ∧
    t.n = s.n ∧ t.pkt = s.pkt ∧ t.history = s.history ∧ t.traffic = s.traffic ∧ t.lastCtrlHdr = s.lastCtrlHdr ∧
    t.delay = s.delay

/-- What no packet kind changes: everything but `pc`, the packet latches, `reply`, `traffic` and `last_ctrl_hdr` (the
"State written" lines of 42_packets.md R124 to R127). The transaction latches are among it by the model's choice (entry 19): R12
gives a latch that the packet kind does not write no defined value. -/
def PacketFrame (s t : State) : Prop :=
  t.cfg = s.cfg ∧ t.rx = s.rx ∧ t.byteCount = s.byteCount ∧ t.start = s.start ∧ t.phase = s.phase ∧ t.done = s.done ∧
    t.n = s.n ∧ t.txn = s.txn ∧ t.addr = s.addr ∧ t.expected = s.expected ∧ t.reg = s.reg ∧ t.history = s.history ∧
    t.recvRing = s.recvRing ∧ t.sentRing = s.sentRing ∧ t.delay = s.delay

/-- Every word of the register file reads as before. -/
def SameRegisters (s t : State) : Prop := ∀ a : Word, t.memRead a = s.memRead a

/-- What `RecordHeaders` leaves: the packet header newest in `recv_ring`, the given word newest in `sent_ring` (R108). -/
def HeadersRecorded (s t : State) (e : Word) : Prop :=
  t.expected = e ∧ t.recvRing = ringPush s.recvRing s.pkt.hdr ∧ t.sentRing = ringPush s.sentRing e

/-! ## Invariants -/

/-- The register file is in canonical form and lists no index beyond ADDR_MASK (R19). -/
def RegFileOk (s : State) : Prop := s.reg.wf = true ∧ ∀ c ∈ s.reg, c.1 ≤ s.cfg.addrMask.toNat

/-- R29: at most 5 pairs in the reply history, and only event codes or 0 in the traffic ring (whose 16 entries, like the
4 of each header ring, are fixed by their types); and once a reply has been stored the delay is consumed (R24, R120). -/
def HistoriesOk (s : State) : Prop :=
  s.history.length ≤ replyHistoryDepth ∧
    (∀ e ∈ s.traffic.toList, e = 0#8 ∨ e = 2#8 ∨ e = 3#8 ∨ e = 4#8 ∨ e = 5#8) ∧
    (s.history ≠ [] → s.delay = .consumed)

/-- The scan index stays in 0 to N (R13); while the block is busy the header has been taken, N is within the buffer (R131),
neither `start` nor `done` is up (R132), and the packet latches hold word 0 of the buffer (R121, R122). -/
def ScanOk (s : State) : Prop :=
  s.pc ≤ s.n ∧
    (s.phase = .busy → 1 ≤ s.pc ∧ s.n ≤ s.cfg.rxBufWords ∧ s.start = false ∧ s.done = false ∧
      s.pkt = latchedPacket (s.rxWord 0))

/-- A control packet's reply begins with its header, verbatim, while it is scanned (R124, R75). -/
def ControlReplyOk (s : State) : Prop :=
  s.phase = .busy → s.pkt.kind = .control → s.reply.head? = some s.pkt.hdr

/-- When `done` is up the block is idle, nothing is asked for, and the newest pair of the reply history is this
invocation's key and reply (R120 step 6, R129, R130). -/
def DoneOk (s : State) : Prop :=
  s.done = true → s.phase = .idle ∧ s.start = false ∧ s.history.getLast? = some (HistEntry.mk s.pkt.seq s.reply)

/-- The type field of `last_ctrl_hdr` is that of a control packet (R23: "0 whenever written by a control packet"). -/
def CtrlHeaderOk (s : State) : Prop := packetType s.lastCtrlHdr = 0#4

/-- The invariant of the block. -/
def Inv (s : State) : Prop :=
  s.cfg.Legal ∧ RegFileOk s ∧ HistoriesOk s ∧ ScanOk s ∧ ControlReplyOk s ∧ DoneOk s ∧ CtrlHeaderOk s

end Sys2Proof.Machine
end

