-- ==== Sys2Proof/Certificates/Slice0/Obligations.lean ====
section
/-! DEFINITION. The statements for the provers. Each names the rules of spec/ it formalises; OBLIGATIONS.json lists them. -/

open Sys2Proof Sys2Proof.Machine

/-! ## Encoding -/

/-- Words written out from R63 to R73 (and 95_test_vectors.md 2.1) decode to the instructions they stand for. -/
def Obligations.SpecWordsDecode : Prop :=
  decode .packet [0x200001F0#32] = .ok (.pktCtrl ⟨2#4, 0#4, 1#16, 0xF#4⟩, []) ∧
  decode .packet [0xABCDEF51#32] = .ok (.pktStatus ⟨0xA#4, 0xB#4, 0xCDEF#16, 5#4⟩, []) ∧
  decode .txnV2 [0x2001041F#32, 0x10#32, 1#32, 2#32, 3#32, 4#32, 0x99#32] =
    .ok (.writeV2 ⟨1#12, 4#8, 0xF#4⟩ 0x10#32 [1#32, 2#32, 3#32, 4#32], [0x99#32]) ∧
  decode .txnV2 [0x10020130#32] = .ok (.unknownV2 ⟨2#12, 1#8, 0#4⟩ 1#4 3#4, []) ∧
  decode .txnV1 [0x10020130#32, 0x20#32, 5#32] = .ok (.rmwSumV1 ⟨1#11, 1#9, 0#3⟩ 0x20#32 5#32, []) ∧
  decode .txnV1 [0x1FFFFF18#32, 7#32] = .ok (.readV1 ⟨0x7FF#11, 511#9, 0#3⟩ 7#32, []) ∧
  decode .txnV2 [0x2001031F#32, 0x10#32, 1#32, 2#32] = .error .bodyMissing

/-- Decode and encode agree, for every well-formed instruction and whatever follows it: no bit of an encoding is dropped
(R63, R65 to R69, R71, R73). -/
def Obligations.DecodeInvertsEncode : Prop :=
  ∀ (i : Instr) (rest : List Word), WellFormed i → decode i.table (encode i ++ rest) = .ok (i, rest)

/-- What is decoded is well formed, belongs to the sub-table, and its encoding is exactly the words consumed: no two
instructions share an encoding and no word is read twice or lost (R61, R76, R77). -/
def Obligations.EncodeInvertsDecode : Prop :=
  ∀ (t : Table) (ws rest : List Word) (i : Instr), decode t ws = .ok (i, rest) →
    WellFormed i ∧ i.table = t ∧ ws = encode i ++ rest

/-- R92: PackHeader builds the word bit for bit, every argument truncated to its field and the version field MAJOR. -/
def Obligations.PackHeaderIsBitExact : Prop :=
  ∀ t n id info : Word,
    packHeader .v2 t n id info =
      0x20000000#32 ||| ((id &&& 0xFFF#32) <<< 16) ||| ((n &&& 0xFF#32) <<< 8) ||| ((t &&& 0xF#32) <<< 4) ||| (info &&& 0xF#32) ∧
    packHeader .v1 t n id info =
      0x10000000#32 ||| ((id &&& 0x7FF#32) <<< 17) ||| ((n &&& 0x1FF#32) <<< 8) ||| ((t &&& 0x1F#32) <<< 3) ||| (info &&& 0x7#32)

/-- R94, laws 1 and 2: a reply header mirrors the request's transaction id and type and carries version MAJOR; and
DecodeHeader undoes PackHeader when every argument fits its field (under each MAJOR, with its own field widths). -/
def Obligations.HeaderCodecMirrorsAndRoundTrips : Prop :=
  (∀ (m : Major) (w n info : Word),
    let d := decodeHeader m w
    let e := decodeHeader m (expectedHeader m (d.typeRaw.setWidth 32) n (d.tid.setWidth 32) info)
    e.tid = d.tid ∧ e.typeRaw = d.typeRaw ∧ e.ver = m.code) ∧
  (∀ (t : BitVec 4) (n : BitVec 8) (id : BitVec 12) (info : BitVec 4),
    let d := decodeHeader .v2 (packHeader .v2 (t.setWidth 32) (n.setWidth 32) (id.setWidth 32) (info.setWidth 32))
    d.ver = 2#4 ∧ d.tid = id ∧ d.wc = n.setWidth 9 ∧ d.typeRaw = t.setWidth 5 ∧ d.infoIn = info) ∧
  (∀ (t : BitVec 5) (n : BitVec 9) (id : BitVec 11) (info : BitVec 3),
    let d := decodeHeader .v1 (packHeader .v1 (t.setWidth 32) (n.setWidth 32) (id.setWidth 32) (info.setWidth 32))
    d.ver = 1#4 ∧ d.tid = id.setWidth 12 ∧ d.wc = n ∧ d.typeRaw = t ∧ d.infoIn = info.setWidth 4)

/-- R69: a transaction header whose version field is not MAJOR decodes as UNKNOWN whatever its type field holds, its
fields still cut with MAJOR's layout; it is one word long. -/
def Obligations.ForeignVersionIsUnknown : Prop :=
  (∀ (w : Word) (rest : List Word), w.extractLsb' 28 4 ≠ 2#4 →
    (decodeHeader .v2 w).ttype = .unknown ∧ (decodeHeader .v2 w).tid = w.extractLsb' 16 12 ∧
    (decodeHeader .v2 w).wc = (w.extractLsb' 8 8).setWidth 9 ∧
    (decodeHeader .v2 w).typeRaw = (w.extractLsb' 4 4).setWidth 5 ∧
    decode .txnV2 (w :: rest) =
      .ok (.unknownV2 ⟨w.extractLsb' 16 12, w.extractLsb' 8 8, w.extractLsb' 0 4⟩ (w.extractLsb' 28 4) (w.extractLsb' 4 4),
        rest)) ∧
  (∀ (w : Word) (rest : List Word), w.extractLsb' 28 4 ≠ 1#4 →
    (decodeHeader .v1 w).ttype = .unknown ∧ (decodeHeader .v1 w).tid = (w.extractLsb' 17 11).setWidth 12 ∧
    (decodeHeader .v1 w).wc = w.extractLsb' 8 9 ∧
    (decodeHeader .v1 w).typeRaw = w.extractLsb' 3 5 ∧
    decode .txnV1 (w :: rest) =
      .ok (.unknownV1 ⟨w.extractLsb' 17 11, w.extractLsb' 8 9, w.extractLsb' 0 3⟩ (w.extractLsb' 28 4) (w.extractLsb' 3 5),
        rest))

/-- R77 with R67 and R68: the decoded type is the one of the first row of the sub-table with `(word & mask) = match`. -/
def Obligations.TableRowsSelectTheType : Prop :=
  (∀ w : Word, (decodeHeader .v2 w).ttype =
    if w &&& 0xF00000F0#32 = 0x20000000#32 then .read
    else if w &&& 0xF00000F0#32 = 0x20000010#32 then .write
    else if w &&& 0xF00000F0#32 = 0x20000020#32 then .niRead
    else if w &&& 0xF00000F0#32 = 0x20000030#32 then .niWrite
    else if w &&& 0xF00000F0#32 = 0x20000040#32 then .rmwBits
    else if w &&& 0xF00000F0#32 = 0x20000050#32 then .rmwSum
    else .unknown) ∧
  (∀ w : Word, (decodeHeader .v1 w).ttype =
    if w &&& 0xF00000F8#32 = 0x10000018#32 then .read
    else if w &&& 0xF00000F8#32 = 0x10000020#32 then .write
    else if w &&& 0xF00000F8#32 = 0x10000028#32 then .rmwBits
    else if w &&& 0xF00000F8#32 = 0x10000030#32 then .rmwSum
    else if w &&& 0xF00000F8#32 = 0x10000040#32 then .niRead
    else if w &&& 0xF00000F8#32 = 0x10000048#32 then .niWrite
    else .unknown)

/-- R122 with R64: `pkt_kind` is decided by bits 3:0 of the packet header alone, and the packet that is decoded is of that
kind; `pkt_type` is those bits. -/
def Obligations.PacketKindFromLowBits : Prop :=
  ∀ (w : Word) (rest : List Word),
    (latchedPacket w).ptype = w.extractLsb' 0 4 ∧
    (latchedPacket w).kind =
      (if w.extractLsb' 0 4 = 0#4 then .control else if w.extractLsb' 0 4 = 1#4 then .status
       else if w.extractLsb' 0 4 = 2#4 then .resend else .unknown) ∧
    decode .packet (w :: rest) =
      .ok (if w.extractLsb' 0 4 = 0#4 then .pktCtrl (cutPacket w) else if w.extractLsb' 0 4 = 1#4 then .pktStatus (cutPacket w)
           else if w.extractLsb' 0 4 = 2#4 then .pktResend (cutPacket w) else .pktUnknown (cutPacket w) (w.extractLsb' 0 4), rest)

/-! ## The register file -/

/-- The effective address is the masked address (R40); masking twice is masking once; and under a legal mask an address
any whole number of file sizes away names the same word, as R40 derives from the form of the mask (D20). -/
def Obligations.EffectiveAddressMasks : Prop :=
  ∀ (s : State) (a : Word),
    s.ea a = (a &&& s.cfg.addrMask).toNat ∧ s.ea (BitVec.ofNat 32 (s.ea a)) = s.ea a ∧
    (s.cfg.Legal → ∀ k : Int, s.ea (a + BitVec.ofInt 32 (k * (s.cfg.addrMask.toNat + 1))) = s.ea a)

/-- R44: the i-th word of an incrementing block is at `EA((addr + i) mod 2^32)`, which under a legal mask is
`(EA(addr) + i) mod 2^AW`; every word of a non-incrementing read is the one at `EA(addr)`. -/
def Obligations.BlockAddressesWrap : Prop :=
  ∀ (s : State) (base : Word) (i : Nat),
    (blockAddr base i).toNat = (base.toNat + i) % 2 ^ 32 ∧
    (s.cfg.Legal → s.ea (blockAddr base i) = (s.ea base + i) % (s.cfg.addrMask.toNat + 1)) ∧
    (∀ k, i < k → (s.readBlock base k)[i]? = some (s.reg.read (s.ea (blockAddr base i)))) ∧
    (∀ k, i < k → (s.readSame base k)[i]? = some (s.reg.read (s.ea base)))

/-- Two register files in canonical form that read the same everywhere are the same list. (The canonical form is the
model's own, entry 3; the contents are R19's.) -/
def Obligations.EqualContentsAreEqualData : Prop :=
  ∀ m₁ m₂ : Memory, m₁.wf = true → m₂.wf = true → (∀ a, m₁.read a = m₂.read a) → m₁ = m₂

/-- R48, word by word: after an incrementing write the word at the i-th address is the last one the block wrote to that
effective address, whatever the length of the block. -/
def Obligations.BlockWriteKeepsTheLastWord : Prop :=
  ∀ (s : State) (base : Word) (ws : List Word) (i : Nat) (h : i < ws.length),
    (∀ k, i < k → k < ws.length → s.ea (blockAddr base k) ≠ s.ea (blockAddr base i)) →
    (s.writeBlock base 0 ws).memRead (blockAddr base i) = ws[i]

/-- R48: writing `[w0..wn-1]` from an address and then reading n words from it returns `[w0..wn-1]` exactly, for
n ≤ ADDR_MASK + 1, as the reply of the READ that follows the WRITE, under both versions. -/
def Obligations.WriteThenReadRoundTrips : Prop :=
  (∀ (s : State) (hw hr : HdrV2) (a : Word) (ws : List Word), s.cfg.Legal → s.cfg.major = .v2 →
    ws.length ≤ s.cfg.addrMask.toNat + 1 → hw.wc.toNat = ws.length → hr.wc.toNat = ws.length →
    ∃ t u, exec (.writeV2 hw a ws) s = .next t ∧ exec (.readV2 hr a) t = .next u ∧
      u.reply = t.reply ++ replyV2 hr.tid hr.wc 0#4 0#4 :: ws) ∧
  (∀ (s : State) (hw hr : HdrV1) (a : Word) (ws : List Word), s.cfg.Legal → s.cfg.major = .v1 →
    ws.length ≤ s.cfg.addrMask.toNat + 1 → hw.wc.toNat = ws.length → hr.wc.toNat = ws.length →
    ∃ t u, exec (.writeV1 hw a ws) s = .next t ∧ exec (.readV1 hr a) t = .next u ∧
      u.reply = t.reply ++ replyV1 hr.tid hr.wc 3#5 0#2 :: ws)

/-- R49: a non-incrementing write followed by a single read at the same address returns the last written word, under both
versions. -/
def Obligations.LastWriteWins : Prop :=
  (∀ (s : State) (hw hr : HdrV2) (a : Word) (ws : List Word) (h : ws ≠ []), s.cfg.major = .v2 →
    hw.wc.toNat = ws.length → hr.wc = 1#8 →
    ∃ t u, exec (.niWriteV2 hw a ws) s = .next t ∧ exec (.readV2 hr a) t = .next u ∧
      u.reply = t.reply ++ [replyV2 hr.tid 1#8 0#4 0#4, ws.getLast h]) ∧
  (∀ (s : State) (hw hr : HdrV1) (a : Word) (ws : List Word) (h : ws ≠ []), s.cfg.major = .v1 →
    hw.wc.toNat = ws.length → hr.wc = 1#9 →
    ∃ t u, exec (.niWriteV1 hw a ws) s = .next t ∧ exec (.readV1 hr a) t = .next u ∧
      u.reply = t.reply ++ [replyV1 hr.tid 1#9 3#5 0#2, ws.getLast h])

/-! ## The transactions: result, completion and frame -/

/-- READ (R101, R72, R108): it completes; the reply is the header with the true count and the words at ascending
addresses; the register file and everything R101 and R108 do not name is unchanged. -/
def Obligations.ReadAnswersTheBlock : Prop :=
  (∀ (s : State) (h : HdrV2) (a : Word), s.cfg.major = .v2 →
    ∃ t, exec (.readV2 h a) s = .next t ∧
      t.reply = s.reply ++ replyV2 h.tid h.wc 0#4 0#4 ::
        (List.range h.wc.toNat).map (fun i => s.memRead (a + BitVec.ofNat 32 i)) ∧
      t.pc = s.pc + 2 ∧ t.addr = a ∧ t.txn = decodeHeader .v2 (headerWord (.readV2 h a)) ∧
      HeadersRecorded s t (replyV2 h.tid h.wc 0#4 0#4) ∧ SameRegisters s t ∧ TxnFrame s t) ∧
  (∀ (s : State) (h : HdrV1) (a : Word), s.cfg.major = .v1 →
    ∃ t, exec (.readV1 h a) s = .next t ∧
      t.reply = s.reply ++ replyV1 h.tid h.wc 3#5 0#2 ::
        (List.range h.wc.toNat).map (fun i => s.memRead (a + BitVec.ofNat 32 i)) ∧
      t.pc = s.pc + 2 ∧ t.addr = a ∧ t.txn = decodeHeader .v1 (headerWord (.readV1 h a)) ∧
      HeadersRecorded s t (replyV1 h.tid h.wc 3#5 0#2) ∧ SameRegisters s t ∧ TxnFrame s t)

/-- NI_READ (R102, R72, R108): it completes; the reply is the header with the true count and that many copies of the one
word; the register file and everything R102 and R108 do not name is unchanged. -/
def Obligations.NiReadRepeatsTheWord : Prop :=
  (∀ (s : State) (h : HdrV2) (a : Word), s.cfg.major = .v2 →
    ∃ t, exec (.niReadV2 h a) s = .next t ∧
      t.reply = s.reply ++ replyV2 h.tid h.wc 2#4 0#4 :: List.replicate h.wc.toNat (s.memRead a) ∧
      t.pc = s.pc + 2 ∧ t.addr = a ∧ t.txn = decodeHeader .v2 (headerWord (.niReadV2 h a)) ∧
      HeadersRecorded s t (replyV2 h.tid h.wc 2#4 0#4) ∧ SameRegisters s t ∧ TxnFrame s t) ∧
  (∀ (s : State) (h : HdrV1) (a : Word), s.cfg.major = .v1 →
    ∃ t, exec (.niReadV1 h a) s = .next t ∧
      t.reply = s.reply ++ replyV1 h.tid h.wc 8#5 0#2 :: List.replicate h.wc.toNat (s.memRead a) ∧
      t.pc = s.pc + 2 ∧ t.addr = a ∧ t.txn = decodeHeader .v1 (headerWord (.niReadV1 h a)) ∧
      HeadersRecorded s t (replyV1 h.tid h.wc 8#5 0#2) ∧ SameRegisters s t ∧ TxnFrame s t)

/-- WRITE (R103, R72, R108): it completes; every data word whose address no later word of the block names stands at its
address; every word at no address of the block reads as before; one reply word, with the true count under MAJOR = 2 and
0 under MAJOR = 1; nothing else changes. -/
def Obligations.WriteStoresTheBlock : Prop :=
  (∀ (s : State) (h : HdrV2) (a : Word) (ws : List Word), s.cfg.major = .v2 → ws.length = h.wc.toNat →
    ∃ t, exec (.writeV2 h a ws) s = .next t ∧ t.reply = s.reply ++ [replyV2 h.tid h.wc 1#4 0#4] ∧
      (∀ (i : Nat) (hi : i < ws.length),
        (∀ k, i < k → k < ws.length → s.ea (blockAddr a k) ≠ s.ea (blockAddr a i)) → t.memRead (blockAddr a i) = ws[i]) ∧
      (∀ b : Word, (∀ k, k < ws.length → s.ea b ≠ s.ea (blockAddr a k)) → t.memRead b = s.memRead b) ∧
      t.pc = s.pc + (2 + h.wc.toNat) ∧ t.addr = a ∧ t.txn = decodeHeader .v2 (headerWord (.writeV2 h a ws)) ∧
      HeadersRecorded s t (replyV2 h.tid h.wc 1#4 0#4) ∧ TxnFrame s t) ∧
  (∀ (s : State) (h : HdrV1) (a : Word) (ws : List Word), s.cfg.major = .v1 → ws.length = h.wc.toNat →
    ∃ t, exec (.writeV1 h a ws) s = .next t ∧ t.reply = s.reply ++ [replyV1 h.tid 0#9 4#5 0#2] ∧
      (∀ (i : Nat) (hi : i < ws.length),
        (∀ k, i < k → k < ws.length → s.ea (blockAddr a k) ≠ s.ea (blockAddr a i)) → t.memRead (blockAddr a i) = ws[i]) ∧
      (∀ b : Word, (∀ k, k < ws.length → s.ea b ≠ s.ea (blockAddr a k)) → t.memRead b = s.memRead b) ∧
      t.pc = s.pc + (2 + h.wc.toNat) ∧ t.addr = a ∧ t.txn = decodeHeader .v1 (headerWord (.writeV1 h a ws)) ∧
      HeadersRecorded s t (replyV1 h.tid 0#9 4#5 0#2) ∧ TxnFrame s t)

/-- NI_WRITE (R104, R72, R108): it completes; the one word ends holding the last data word (and as before if there is
none); every other word reads as before; one reply word, with the true count under MAJOR = 2 and 0 under MAJOR = 1;
nothing else changes. -/
def Obligations.NiWriteStoresTheLastWord : Prop :=
  (∀ (s : State) (h : HdrV2) (a : Word) (ws : List Word), s.cfg.major = .v2 → ws.length = h.wc.toNat →
    ∃ t, exec (.niWriteV2 h a ws) s = .next t ∧ t.reply = s.reply ++ [replyV2 h.tid h.wc 3#4 0#4] ∧
      t.memRead a = ws.getLastD (s.memRead a) ∧ (∀ b : Word, s.ea b ≠ s.ea a → t.memRead b = s.memRead b) ∧
      t.pc = s.pc + (2 + h.wc.toNat) ∧ t.addr = a ∧ t.txn = decodeHeader .v2 (headerWord (.niWriteV2 h a ws)) ∧
      HeadersRecorded s t (replyV2 h.tid h.wc 3#4 0#4) ∧ TxnFrame s t) ∧
  (∀ (s : State) (h : HdrV1) (a : Word) (ws : List Word), s.cfg.major = .v1 → ws.length = h.wc.toNat →
    ∃ t, exec (.niWriteV1 h a ws) s = .next t ∧ t.reply = s.reply ++ [replyV1 h.tid 0#9 9#5 0#2] ∧
      t.memRead a = ws.getLastD (s.memRead a) ∧ (∀ b : Word, s.ea b ≠ s.ea a → t.memRead b = s.memRead b) ∧
      t.pc = s.pc + (2 + h.wc.toNat) ∧ t.addr = a ∧ t.txn = decodeHeader .v1 (headerWord (.niWriteV1 h a ws)) ∧
      HeadersRecorded s t (replyV1 h.tid 0#9 9#5 0#2) ∧ TxnFrame s t)

/-- RMW_BITS (R105, R45, R47, R72, R108): it completes, whatever word count the request carries; the word becomes
`(old & andTerm) | orTerm`, every other word reads as before; the reply is the header with word count 1 and the old word
under MAJOR = 2, the new one under MAJOR = 1; nothing else changes. -/
def Obligations.RmwBitsUpdatesOneWord : Prop :=
  (∀ (s : State) (h : HdrV2) (a x y : Word), s.cfg.major = .v2 →
    ∃ t, exec (.rmwBitsV2 h a x y) s = .next t ∧
      t.reply = s.reply ++ [replyV2 h.tid 1#8 4#4 0#4, s.memRead a] ∧
      t.memRead a = (s.memRead a &&& x) ||| y ∧ (∀ b : Word, s.ea b ≠ s.ea a → t.memRead b = s.memRead b) ∧
      t.pc = s.pc + 4 ∧ t.addr = a ∧ t.txn = decodeHeader .v2 (headerWord (.rmwBitsV2 h a x y)) ∧
      HeadersRecorded s t (replyV2 h.tid 1#8 4#4 0#4) ∧ TxnFrame s t) ∧
  (∀ (s : State) (h : HdrV1) (a x y : Word), s.cfg.major = .v1 →
    ∃ t, exec (.rmwBitsV1 h a x y) s = .next t ∧
      t.reply = s.reply ++ [replyV1 h.tid 1#9 5#5 0#2, (s.memRead a &&& x) ||| y] ∧
      t.memRead a = (s.memRead a &&& x) ||| y ∧ (∀ b : Word, s.ea b ≠ s.ea a → t.memRead b = s.memRead b) ∧
      t.pc = s.pc + 4 ∧ t.addr = a ∧ t.txn = decodeHeader .v1 (headerWord (.rmwBitsV1 h a x y)) ∧
      HeadersRecorded s t (replyV1 h.tid 1#9 5#5 0#2) ∧ TxnFrame s t)

/-- RMW_SUM (R106, R46, R47, R72, R108): it completes, whatever word count the request carries; the word becomes
`(old + addend) mod 2^32`, every other word reads as before; the reply is the header with word count 1 and the old word
under MAJOR = 2, the new one under MAJOR = 1; nothing else changes. -/
def Obligations.RmwSumUpdatesOneWord : Prop :=
  (∀ (s : State) (h : HdrV2) (a x : Word), s.cfg.major = .v2 →
    ∃ t, exec (.rmwSumV2 h a x) s = .next t ∧
      t.reply = s.reply ++ [replyV2 h.tid 1#8 5#4 0#4, s.memRead a] ∧
      (t.memRead a).toNat = ((s.memRead a).toNat + x.toNat) % 2 ^ 32 ∧
      (∀ b : Word, s.ea b ≠ s.ea a → t.memRead b = s.memRead b) ∧
      t.pc = s.pc + 3 ∧ t.addr = a ∧ t.txn = decodeHeader .v2 (headerWord (.rmwSumV2 h a x)) ∧
      HeadersRecorded s t (replyV2 h.tid 1#8 5#4 0#4) ∧ TxnFrame s t) ∧
  (∀ (s : State) (h : HdrV1) (a x : Word), s.cfg.major = .v1 →
    ∃ t, exec (.rmwSumV1 h a x) s = .next t ∧
      t.reply = s.reply ++ [replyV1 h.tid 1#9 6#5 0#2, t.memRead a] ∧
      (t.memRead a).toNat = ((s.memRead a).toNat + x.toNat) % 2 ^ 32 ∧
      (∀ b : Word, s.ea b ≠ s.ea a → t.memRead b = s.memRead b) ∧
      t.pc = s.pc + 3 ∧ t.addr = a ∧ t.txn = decodeHeader .v1 (headerWord (.rmwSumV1 h a x)) ∧
      HeadersRecorded s t (replyV1 h.tid 1#9 6#5 0#2) ∧ TxnFrame s t)

/-- UNKNOWN (R107, R70, R93, R108): it completes; one reply word, version MAJOR, the request's transaction id and raw
type, word count 0, info code 1; the register file and everything else is unchanged, the latch `addr` too. That the
latch `addr`, which UNKNOWN does not write, keeps its value is the model's choice (entry 19). -/
def Obligations.UnknownAnswersAnErrorHeader : Prop :=
  (∀ (s : State) (h : HdrV2) (ver raw : BitVec 4), s.cfg.major = .v2 → WellFormed (.unknownV2 h ver raw) →
    ∃ t, exec (.unknownV2 h ver raw) s = .next t ∧ t.reply = s.reply ++ [replyV2 h.tid 0#8 raw 1#4] ∧
      t.pc = s.pc + 1 ∧ t.addr = s.addr ∧ t.txn = decodeHeader .v2 (headerWord (.unknownV2 h ver raw)) ∧
      HeadersRecorded s t (replyV2 h.tid 0#8 raw 1#4) ∧ SameRegisters s t ∧ TxnFrame s t) ∧
  (∀ (s : State) (h : HdrV1) (ver : BitVec 4) (raw : BitVec 5), s.cfg.major = .v1 → WellFormed (.unknownV1 h ver raw) →
    ∃ t, exec (.unknownV1 h ver raw) s = .next t ∧ t.reply = s.reply ++ [replyV1 h.tid 0#9 raw 1#2] ∧
      t.pc = s.pc + 1 ∧ t.addr = s.addr ∧ t.txn = decodeHeader .v1 (headerWord (.unknownV1 h ver raw)) ∧
      HeadersRecorded s t (replyV1 h.tid 0#9 raw 1#2) ∧ SameRegisters s t ∧ TxnFrame s t)

/-! ## The packet kinds: result, completion and frame -/

/-- PKT.CTRL (R124, R121): it completes; the header is emitted verbatim and recorded as last-seen control header, code 2
is the newest traffic event, the packet latches hold the header's fields; nothing else changes. That the transaction
latches, which no packet header writes, keep their values is the model's choice (entry 19). -/
def Obligations.ControlPacketEchoesItsHeader : Prop :=
  ∀ (s : State) (p : PktFields),
    ∃ t w, w = p.ver ++ p.rsvd ++ p.seq ++ p.byteOrder ++ 0#4 ∧ exec (.pktCtrl p) s = .next t ∧
      t.reply = s.reply ++ [w] ∧ t.lastCtrlHdr = w ∧ t.traffic = ringPush s.traffic 2#8 ∧
      t.pkt = { hdr := w, seq := p.seq, ptype := 0#4, kind := .control } ∧ t.pc = s.pc + 1 ∧ PacketFrame s t

/-- PKT.STATUS (R125, R150 to R154): it completes; the reply is the 16 words of R150, every one bit by bit, from the
state before the packet's own code 3 is pushed; `last_ctrl_hdr` and everything else is unchanged. That the transaction
latches, which no packet header writes, keep their values is the model's choice (entry 19). -/
def Obligations.StatusPacketAnswersSixteenWords : Prop :=
  ∀ (s : State) (p : PktFields),
    ∃ t w, w = p.ver ++ p.rsvd ++ p.seq ++ p.byteOrder ++ 1#4 ∧ exec (.pktStatus p) s = .next t ∧
      t.reply = s.reply ++
        [w, BitVec.ofNat 32 (4 * s.cfg.rxBufWords), 5#32,
         s.lastCtrlHdr.extractLsb' 24 8 ++ (s.lastCtrlHdr.extractLsb' 8 16 + 1#16) ++ s.lastCtrlHdr.extractLsb' 0 8,
         s.traffic[0] ++ s.traffic[1] ++ s.traffic[2] ++ s.traffic[3],
         s.traffic[4] ++ s.traffic[5] ++ s.traffic[6] ++ s.traffic[7],
         s.traffic[8] ++ s.traffic[9] ++ s.traffic[10] ++ s.traffic[11],
         s.traffic[12] ++ s.traffic[13] ++ s.traffic[14] ++ s.traffic[15],
         s.recvRing[0], s.recvRing[1], s.recvRing[2], s.recvRing[3],
         s.sentRing[0], s.sentRing[1], s.sentRing[2], s.sentRing[3]] ∧
      t.lastCtrlHdr = s.lastCtrlHdr ∧ t.traffic = ringPush s.traffic 3#8 ∧
      t.pkt = { hdr := w, seq := p.seq, ptype := 1#4, kind := .status } ∧ t.pc = s.pc + 1 ∧ PacketFrame s t

/-- PKT.RESEND (R126, R144): it completes; if the newest pair with the packet's sequence number holds the words `ws`,
the whole reply buffer becomes `ws`; if no pair has it, the buffer stays as it is; code 4 is the newest traffic event;
nothing else changes. That the transaction latches, which no packet header writes, keep their values is the model's
choice (entry 19). -/
def Obligations.ResendPacketReplacesTheReply : Prop :=
  ∀ (s : State) (p : PktFields),
    ∃ t w, w = p.ver ++ p.rsvd ++ p.seq ++ p.byteOrder ++ 2#4 ∧ exec (.pktResend p) s = .next t ∧
      (∀ older newer ws, s.history = older ++ HistEntry.mk p.seq ws :: newer → (∀ e ∈ newer, e.key ≠ p.seq) → t.reply = ws) ∧
      ((∀ e ∈ s.history, e.key ≠ p.seq) → t.reply = s.reply) ∧
      t.lastCtrlHdr = s.lastCtrlHdr ∧ t.traffic = ringPush s.traffic 4#8 ∧
      t.pkt = { hdr := w, seq := p.seq, ptype := 2#4, kind := .resend } ∧ t.pc = s.pc + 1 ∧ PacketFrame s t

/-- PKT.UNKNOWN (R127): it completes, for every type 0x3 to 0xF; code 5 is the newest traffic event, no reply content is
produced; nothing else changes. That the transaction latches, which no packet header writes, keep their values is the
model's choice (entry 19). -/
def Obligations.UnknownPacketRecordsOnly : Prop :=
  ∀ (s : State) (p : PktFields) (ty : BitVec 4), WellFormed (.pktUnknown p ty) →
    ∃ t w, w = p.ver ++ p.rsvd ++ p.seq ++ p.byteOrder ++ ty ∧ exec (.pktUnknown p ty) s = .next t ∧
      t.reply = s.reply ∧ t.lastCtrlHdr = s.lastCtrlHdr ∧ t.traffic = ringPush s.traffic 5#8 ∧
      t.pkt = { hdr := w, seq := p.seq, ptype := ty, kind := .unknown } ∧ t.pc = s.pc + 1 ∧ PacketFrame s t

/-! ## The step -/

/-- A step in the scan of a control packet runs the transaction decoded at `pc`: it is exec of it, nothing added (R100,
R124). One table row a step is the model's grain (entry 1). -/
def Obligations.StepRunsTheDecodedTransaction : Prop :=
  ∀ (s : State) (i : Instr) (rest : List Word), s.phase = .busy → s.pkt.kind = .control → s.pc < s.n →
    decode s.cfg.major.table ((List.range (s.n - s.pc)).map fun k => s.rxWord (s.pc + k)) = .ok (i, rest) →
    step s = exec i s

/-- A step of an idle block that has been started, with a buffer of legal length, opens the invocation (R120 steps 1 and
2: the reply is cleared, `pc` is 0, `N` is `byteCount/4`) and runs the packet header decoded from word 0. That this step
takes the pending `start`, makes the block busy and leaves `done` down is the model's reading of R132 (entry 6,
DEDUCED). One table row a step is the model's grain (entry 1). -/
def Obligations.StepRunsTheDecodedPacket : Prop :=
  ∀ (s : State) (i : Instr), s.phase = .idle → s.start = true → 1 ≤ s.byteCount.toNat / 4 →
    s.byteCount.toNat / 4 ≤ s.cfg.rxBufWords → decode .packet [s.rxWord 0] = .ok (i, []) →
    step s = exec i { s with reply := [], n := s.byteCount.toNat / 4, pc := 0, start := false, phase := .busy, done := false }

/-- A step of a busy block whose scan is over ends the invocation (R128, R129, R143): the delay is consumed, the reply
is stored under the packet's sequence number as the newest of at most five pairs, the block is idle and `done` is up.
One table row a step is the model's grain (entry 1). `pc`, `N` and the latches, which are dead then (R130), keep their
values by the model's choice (entry 19). -/
def Obligations.StepEndsTheInvocation : Prop :=
  ∀ s : State, s.phase = .busy → ¬ (s.pkt.kind = .control ∧ s.pc < s.n) →
    step s = .next { s with
      delay := .consumed,
      history := if 5 ≤ s.history.length then s.history.tail ++ [HistEntry.mk s.pkt.seq s.reply]
                 else s.history ++ [HistEntry.mk s.pkt.seq s.reply],
      phase := .idle, done := true }

/-- R191: an idle block that nothing has started does nothing. -/
def Obligations.IdleBlockWaits : Prop :=
  ∀ s : State, s.phase = .idle → s.start = false → step s = .next s

/-- R131, R166: a start with no whole word, or with more words than the buffer holds, is refused, before anything else.
The names of the refusals are the model's (entry 9). -/
def Obligations.EmptyAndOversizeBuffersAreRefused : Prop :=
  ∀ s : State, s.phase = .idle → s.start = true →
    (s.byteCount.toNat / 4 = 0 → step s = .refused .emptyBuffer) ∧
    (1 ≤ s.byteCount.toNat / 4 → s.cfg.rxBufWords < s.byteCount.toNat / 4 → step s = .refused .oversizeBuffer)

/-- R165, R73: in the scan of a control packet, with the length TxnLen gives the header at `pc`: if the transaction runs
past N the step faults with `MalformedBody(N)`; if it does not, the step completes and moves `pc` by exactly that
length. One table row a step is the model's grain (entry 1). That the fault comes before any effect of the transaction
is the model's choice (entry 8). -/
def Obligations.MissingBodyWordFaults : Prop :=
  ∀ s : State, s.phase = .busy → s.pkt.kind = .control → s.pc < s.n →
    let d := decodeHeader s.cfg.major (s.rxWord s.pc)
    (s.n < s.pc + txnLen d.ttype d.wc.toNat → step s = .fault (.malformedBody s.n)) ∧
    (s.pc + txnLen d.ttype d.wc.toNat ≤ s.n → ∃ t, step s = .next t ∧ t.pc = s.pc + txnLen d.ttype d.wc.toNat)

/-- R160, R161: no instruction traps, halts or aborts: exec of every instruction answers a next state in every state. -/
def Obligations.NoInstructionStops : Prop := ∀ (i : Instr) (s : State), ∃ t, exec i s = .next t

/-- R160 to R166: the only stops of the block are F1 in the scan of a control packet, with the index N of the missing
word, and F2 at the start of an invocation. That the fault comes at the step of the whole transaction and the names of
the stops are the model's (entries 1, 8 and 9). -/
def Obligations.OnlyF1AndF2Stop : Prop :=
  ∀ s : State,
    (∀ f, step s = .fault f → s.phase = .busy ∧ s.pkt.kind = .control ∧ s.pc < s.n ∧ f = .malformedBody s.n) ∧
    (∀ r, step s = .refused r → s.phase = .idle ∧ s.start = true ∧
      ((s.byteCount.toNat / 4 = 0 ∧ r = .emptyBuffer) ∨
       (s.cfg.rxBufWords < s.byteCount.toNat / 4 ∧ r = .oversizeBuffer)))

/-! ## Rings and histories -/

/-- R29, R140: after any pushes a ring holds, oldest first, the newest of its entries and the pushed values, as many as it
is deep. -/
def Obligations.RingsKeepTheNewest : Prop :=
  ∀ (α : Type) (n : Nat) (r : Vector α (n + 1)) (vs : List α),
    (vs.foldl ringPush r).toList = (r.toList ++ vs).drop vs.length

/-- R143, R29: after any stores the reply history holds, oldest first, the newest five of its pairs and the stored ones. -/
def Obligations.HistoryKeepsTheNewestFive : Prop :=
  ∀ (h es : List HistEntry), h.length ≤ 5 →
    es.foldl (fun h e => historyPush h e.key e.words) h = (h ++ es).drop ((h ++ es).length - 5)

/-- R145, laws 2 and 3: a reply stored under a key is found by a lookup of that key exactly while at most four stores,
all under other keys, have followed it. -/
def Obligations.ResendReachesFiveStores : Prop :=
  ∀ (h es : List HistEntry) (k : BitVec 16) (ws : List Word), h.length ≤ 5 → (∀ e ∈ es, e.key ≠ k) →
    historyFind (es.foldl (fun h e => historyPush h e.key e.words) (historyPush h k ws)) k =
      if es.length ≤ 4 then some ws else none

/-! ## Rules of the whole machine -/

/-- R14, R16, R58: no step changes the configuration or the inbound buffer. One table row a step is the model's grain
(entry 1). -/
def Obligations.NoStepWritesConfigurationOrBuffer : Prop :=
  ∀ s t : State, step s = .next t → t.cfg = s.cfg ∧ t.rx = s.rx ∧ t.byteCount = s.byteCount

/-- R19: the register file changes only in a step that runs a write or a read-modify-write transaction of a control
packet. One table row a step is the model's grain (entry 1). -/
def Obligations.RegistersChangeOnlyByWriters : Prop :=
  ∀ s t : State, step s = .next t → SameRegisters s t ∨
    (s.phase = .busy ∧ s.pkt.kind = .control ∧ s.pc < s.n ∧
      ((decodeHeader s.cfg.major (s.rxWord s.pc)).ttype = .write ∨ (decodeHeader s.cfg.major (s.rxWord s.pc)).ttype = .niWrite ∨
       (decodeHeader s.cfg.major (s.rxWord s.pc)).ttype = .rmwBits ∨ (decodeHeader s.cfg.major (s.rxWord s.pc)).ttype = .rmwSum))

/-- R142, R108: the header rings receive one entry each in a step that runs a transaction, the packet header and the
reply header just produced, and nothing in any other step. One table row a step is the model's grain (entry 1). -/
def Obligations.HeaderRingsRecordTransactions : Prop :=
  ∀ s t : State, step s = .next t →
    if s.phase = .busy ∧ s.pkt.kind = .control ∧ s.pc < s.n then
      t.recvRing = ringPush s.recvRing s.pkt.hdr ∧ t.sentRing = ringPush s.sentRing t.expected
    else t.recvRing = s.recvRing ∧ t.sentRing = s.sentRing

/-- R141, R21: the traffic ring receives exactly one code per invocation, in the step that takes the packet header, the
code of the packet kind; no other step changes it. One table row a step is the model's grain (entry 1). -/
def Obligations.TrafficRecordsEachPacketOnce : Prop :=
  ∀ s t : State, step s = .next t →
    if s.phase = .idle ∧ s.start = true then
      t.traffic = ringPush s.traffic
        (if (s.rxWord 0).extractLsb' 0 4 = 0#4 then 2#8 else if (s.rxWord 0).extractLsb' 0 4 = 1#4 then 3#8
         else if (s.rxWord 0).extractLsb' 0 4 = 2#4 then 4#8 else 5#8)
    else t.traffic = s.traffic

/-- R23: `last_ctrl_hdr` changes only in the step that takes the header of a control packet, and then holds it. One
table row a step is the model's grain (entry 1). -/
def Obligations.LastControlHeaderIsTheLastSeen : Prop :=
  ∀ s t : State, step s = .next t →
    if s.phase = .idle ∧ s.start = true ∧ (s.rxWord 0).extractLsb' 0 4 = 0#4 then t.lastCtrlHdr = s.rxWord 0
    else t.lastCtrlHdr = s.lastCtrlHdr

/-- R24, R20, R120: the delay is consumed and the reply history written only in the step that ends an invocation, and
the delay never leaves `Consumed`. One table row a step is the model's grain (entry 1). -/
def Obligations.OnlyTheEndConsumesAndStores : Prop :=
  ∀ s t : State, step s = .next t →
    (s.delay = .consumed → t.delay = .consumed) ∧
    (¬ (s.phase = .busy ∧ ¬ (s.pkt.kind = .control ∧ s.pc < s.n)) → t.delay = s.delay ∧ t.history = s.history)

/-- R200, R24, R2: the delay and the minor version change no word: with another delay and another MINOR a step stops the
same way or gives the same state but for these two. One table row a step is the model's grain (entry 1). -/
def Obligations.DelayAndMinorChangeNoWord : Prop :=
  ∀ (s : State) (d e : Delay) (k : BitVec 4),
    andThen (step { s with delay := d, cfg := { s.cfg with minor := k } })
        (fun t => .next { t with delay := e, cfg := { t.cfg with minor := 0#4 } }) =
      andThen (step s) (fun t => .next { t with delay := e, cfg := { t.cfg with minor := 0#4 } })

/-- R16, U7: words of `RX` at index N and above are never read: with other words there a step stops the same way or
gives the same state but for `RX`. One table row a step is the model's grain (entry 1). -/
def Obligations.UnscannedWordsAreNeverRead : Prop :=
  ∀ (s : State) (rx' : List Word),
    (∀ k, k < (if s.phase = .idle then s.byteCount.toNat / 4 else s.n) → ({ s with rx := rx' } : State).rxWord k = s.rxWord k) →
    step { s with rx := rx' } = andThen (step s) (fun t => .next { t with rx := rx' })

/-! ## Reset and invariants -/

/-- R30: the values the spec gives for reset, for every configuration: the configured values, `REG[a] = REG_INIT(a)` for
every index, the empty reply and reply history, rings of zeros, `last_ctrl_hdr = {MAJOR, 0x00000F0}`, the delay pending;
and `State.reset` is such a state. Which configuration `State.reset` has is the model's choice (entry 2) and no part of
this. -/
def Obligations.ResetLeavesTheStatedValues : Prop :=
  (∀ c : Config, (State.resetWith c).cfg = c ∧ (∀ a, (State.resetWith c).reg.read a = Config.regInit a) ∧
    (State.resetWith c).reply = [] ∧ (State.resetWith c).history = [] ∧
    (State.resetWith c).traffic.toList = List.replicate 16 0#8 ∧ (State.resetWith c).recvRing.toList = List.replicate 4 0#32 ∧
    (State.resetWith c).sentRing.toList = List.replicate 4 0#32 ∧
    (State.resetWith c).lastCtrlHdr = c.major.code ++ 0x00000F0#28 ∧
    (State.resetWith c).delay = .pending c.replyDelayInit) ∧
  ∃ c, State.reset = State.resetWith c

/-- The invariant holds after reset with every legal configuration (R29, R30 for the histories, the rings, the delay,
the reply and `last_ctrl_hdr`; R191 for the idle block), and at `State.reset`. R30 gives no value to `pc`, `N`, the
latches and the handshake bits: that `pc` is at most `N` rests on entry 5, that `start` and `done` are down on entry 6,
the canonical form of the register file on entry 3, and that `State.reset` has a legal configuration on entry 2. -/
def Obligations.InvariantHoldsAtReset : Prop :=
  (∀ c : Config, c.Legal → Inv (State.resetWith c)) ∧ Inv State.reset

/-- Every step keeps the invariant: bounded histories and legal event codes (R29), the scan index in 0 to N (R13), N
within the buffer (R131), register indices within ADDR_MASK (R19), latches that hold word 0 (R121, R122), the verbatim
echo (R124), the stored reply at `done` (R120, R129). The canonical form of the register file is the model's (entry 3),
when `start` and `done` are up is DEDUCED (entry 6), that the packet latches last beyond the end is the model's choice
(entry 19), and one table row a step is the model's grain (entry 1). -/
def Obligations.StepKeepsTheInvariant : Prop := ∀ s t : State, Inv s → step s = .next t → Inv t

/-- Every move of the transport keeps the invariant (R132, R10): a load of `RX`, a start, a packet, a reset to a legal
configuration. That a block which is not ready takes no move is the model's choice (entry 12). So are, in the invariant,
the canonical form of the register file (entry 3), that a start lowers `done` and that `start` and `done` are down after
`rst` (entry 6), that `pc` is at most `N` after `rst` (entry 5), and that `pc`, `N` and the packet latches keep their
values between invocations (entry 19). -/
def Obligations.TransportKeepsTheInvariant : Prop :=
  ∀ (s : State) (ws : List Word) (b : BitVec 32) (c : Config), Inv s → c.Legal →
    Inv (s.loadRx ws) ∧ Inv (s.raiseStart b) ∧ Inv (s.sendPacket ws) ∧ Inv (s.rst c)

/-! ## Whole invocations -/

/-- R120, R210: the steps from the start of an invocation make exactly the atomic invocation of R120, ending as it ends
(in the final state, in F1 or in F2), within N + 1 steps. That `start` is a pending request is DEDUCED (entry 6). One
table row a step is the model's grain (entry 1). -/
def Obligations.StepsMakeTheInvocation : Prop :=
  ∀ s : State, s.phase = .idle → s.start = true →
    ∃ k, 1 ≤ k ∧ k ≤ s.byteCount.toNat / 4 + 1 ∧ Sys2Proof.core.run k s = s.invoke

/-- R55, R110, R124: a control packet whose words are a header and well-formed transactions of MAJOR's sub-table runs them
all, in the order they stand, each to its end before the next, and then ends. -/
def Obligations.ControlPacketRunsInOrder : Prop :=
  ∀ (s : State) (p : PktFields) (is : List Instr),
    (∀ i ∈ is, WellFormed i ∧ i.table = s.cfg.major.table) →
    (List.range (s.byteCount.toNat / 4)).map s.rxWord = encode (.pktCtrl p) ++ is.flatMap encode →
    s.byteCount.toNat / 4 ≤ s.cfg.rxBufWords →
    ∃ t, execAll (.pktCtrl p :: is) s.openInvocation = .next t ∧ s.invoke = .next t.finish

/-- R75, R120, R129: what an invocation that ends leaves: a control reply that begins with the packet header, a status
reply of 16 words, the stored reply or nothing for a resend, nothing for an unknown packet; the reply stored under the
packet's sequence number, whatever the kind; the delay consumed; the block idle with `done` up. -/
def Obligations.InvocationShapesTheReply : Prop :=
  ∀ s t : State, s.invoke = .next t →
    (packetKind ((s.rxWord 0).extractLsb' 0 4) = .control → t.reply.head? = some (s.rxWord 0)) ∧
    (packetKind ((s.rxWord 0).extractLsb' 0 4) = .status → t.reply.length = 16) ∧
    (packetKind ((s.rxWord 0).extractLsb' 0 4) = .resend →
      t.reply = (historyFind s.history ((s.rxWord 0).extractLsb' 8 16)).getD []) ∧
    (packetKind ((s.rxWord 0).extractLsb' 0 4) = .unknown → t.reply = []) ∧
    t.history = historyPush s.history ((s.rxWord 0).extractLsb' 8 16) t.reply ∧
    t.delay = .consumed ∧ t.phase = .idle ∧ t.done = true

/-- R126, R143: a resend packet sent right after an invocation that has ended, with that packet's sequence number, is
answered with the same reply, word for word, and changes no register. The packet is sent by the model's transport move
(entry 12). The packet latches still hold that packet's sequence number by the model's choice (entry 19). -/
def Obligations.ResendRepeatsTheLastReply : Prop :=
  ∀ (s t : State) (w : Word), s.invoke = .next t → w.extractLsb' 0 4 = 2#4 → w.extractLsb' 8 16 = t.pkt.seq →
    ∃ u, (t.sendPacket [w]).invoke = .next u ∧ u.reply = t.reply ∧ SameRegisters t u

/-- R132, R192, R202: a packet the transport sends to a ready block stands in `RX` from index 0, the words above it keep
what they held, and an invocation of exactly its words is asked for; a block that is not ready takes no move. That a
block which is not ready takes no move is the model's choice (entry 12). That `start` stays pending until the next step
is DEDUCED (entry 6). -/
def Obligations.TransportPlacesThePacket : Prop :=
  ∀ (s : State) (ws : List Word), ws.length ≤ s.cfg.rxBufWords → 4 * ws.length < 2 ^ 32 →
    (s.ready = true →
      (∀ (k : Nat) (h : k < ws.length), (s.sendPacket ws).rxWord k = ws[k]) ∧
      (∀ k, ws.length ≤ k → k < s.cfg.rxBufWords → (s.sendPacket ws).rxWord k = s.rxWord k) ∧
      (s.sendPacket ws).byteCount.toNat / 4 = ws.length ∧ (s.sendPacket ws).start = true) ∧
    (s.ready = false → s.sendPacket ws = s ∧ s.loadRx ws = s ∧ ∀ b, s.raiseStart b = s)
end

