-- ==== Sys2Proof/Laws/Codec.lean ====
section
/-! SUPPORT. The laws of the bit fields: what a field of a built header word is, and that a word is built from its fields.
Everything said of encodings rests on these. -/

namespace Sys2Proof

/-- What a built MAJOR = 2 header word holds in each field: the argument, truncated. -/
theorem buildHeader_v2_ver (ver raw n id info : Word) :
    Major.v2.layout.ver.cut 4 (buildHeader .v2 ver raw n id info) = ver.setWidth 4 := by
  apply BitVec.eq_of_getLsbD_eq
  intro i hi
  interval_cases i <;> simp [BitField.cut, BitField.put, BitField.width, buildHeader, Major.layout]

theorem buildHeader_v2_tid (ver raw n id info : Word) :
    Major.v2.layout.tid.cut 12 (buildHeader .v2 ver raw n id info) = id.setWidth 12 := by
  apply BitVec.eq_of_getLsbD_eq
  intro i hi
  interval_cases i <;> simp [BitField.cut, BitField.put, BitField.width, buildHeader, Major.layout]

theorem buildHeader_v2_wc (ver raw n id info : Word) :
    Major.v2.layout.wc.cut 8 (buildHeader .v2 ver raw n id info) = n.setWidth 8 := by
  apply BitVec.eq_of_getLsbD_eq
  intro i hi
  interval_cases i <;> simp [BitField.cut, BitField.put, BitField.width, buildHeader, Major.layout]

theorem buildHeader_v2_typeRaw (ver raw n id info : Word) :
    Major.v2.layout.typeRaw.cut 4 (buildHeader .v2 ver raw n id info) = raw.setWidth 4 := by
  apply BitVec.eq_of_getLsbD_eq
  intro i hi
  interval_cases i <;> simp [BitField.cut, BitField.put, BitField.width, buildHeader, Major.layout]

theorem buildHeader_v2_info (ver raw n id info : Word) :
    Major.v2.layout.info.cut 4 (buildHeader .v2 ver raw n id info) = info.setWidth 4 := by
  apply BitVec.eq_of_getLsbD_eq
  intro i hi
  interval_cases i <;> simp [BitField.cut, BitField.put, BitField.width, buildHeader, Major.layout]

/-- What a built MAJOR = 1 header word holds in each field: the argument, truncated. -/
theorem buildHeader_v1_ver (ver raw n id info : Word) :
    Major.v1.layout.ver.cut 4 (buildHeader .v1 ver raw n id info) = ver.setWidth 4 := by
  apply BitVec.eq_of_getLsbD_eq
  intro i hi
  interval_cases i <;> simp [BitField.cut, BitField.put, BitField.width, buildHeader, Major.layout]

theorem buildHeader_v1_tid (ver raw n id info : Word) :
    Major.v1.layout.tid.cut 11 (buildHeader .v1 ver raw n id info) = id.setWidth 11 := by
  apply BitVec.eq_of_getLsbD_eq
  intro i hi
  interval_cases i <;> simp [BitField.cut, BitField.put, BitField.width, buildHeader, Major.layout]

theorem buildHeader_v1_wc (ver raw n id info : Word) :
    Major.v1.layout.wc.cut 9 (buildHeader .v1 ver raw n id info) = n.setWidth 9 := by
  apply BitVec.eq_of_getLsbD_eq
  intro i hi
  interval_cases i <;> simp [BitField.cut, BitField.put, BitField.width, buildHeader, Major.layout]

theorem buildHeader_v1_typeRaw (ver raw n id info : Word) :
    Major.v1.layout.typeRaw.cut 5 (buildHeader .v1 ver raw n id info) = raw.setWidth 5 := by
  apply BitVec.eq_of_getLsbD_eq
  intro i hi
  interval_cases i <;> simp [BitField.cut, BitField.put, BitField.width, buildHeader, Major.layout]

theorem buildHeader_v1_info (ver raw n id info : Word) :
    Major.v1.layout.info.cut 3 (buildHeader .v1 ver raw n id info) = info.setWidth 3 := by
  apply BitVec.eq_of_getLsbD_eq
  intro i hi
  interval_cases i <;> simp [BitField.cut, BitField.put, BitField.width, buildHeader, Major.layout]

/-- A field cut into a wider latch is the field, zero-extended. -/
theorem BitField.cut_wider (f : BitField) {n k : Nat} (hk : f.width ≤ n) (w : Word) :
    f.cut k w = (f.cut n w).setWidth k := by
  apply BitVec.eq_of_getLsbD_eq
  intro i hi
  simp only [BitField.cut, BitVec.getLsbD_setWidth, BitVec.getLsbD_extractLsb', hi, decide_true, Bool.true_and]
  by_cases h : i < n
  · simp [h]
  · have : ¬ i < f.width := by omega
    simp [h, this]

/-- A MAJOR = 2 header word is built from its own fields: no bit is dropped. -/
theorem cutV2_word (w : Word) :
    (cutV2 w).word (Major.v2.layout.ver.cut 4 w) (Major.v2.layout.typeRaw.cut 5 w) = w := by
  apply BitVec.eq_of_getLsbD_eq
  intro i hi
  interval_cases i <;> simp [HdrV2.word, cutV2, BitField.cut, BitField.put, BitField.width, buildHeader, Major.layout]

/-- A MAJOR = 1 header word is built from its own fields: no bit is dropped. -/
theorem cutV1_word (w : Word) :
    (cutV1 w).word (Major.v1.layout.ver.cut 4 w) (Major.v1.layout.typeRaw.cut 5 w) = w := by
  apply BitVec.eq_of_getLsbD_eq
  intro i hi
  interval_cases i <;> simp [HdrV1.word, cutV1, BitField.cut, BitField.put, BitField.width, buildHeader, Major.layout]

/-- A packet header word is built from its own fields. -/
theorem cutPacket_word (w : Word) : (cutPacket w).word (packetType w) = w := by
  apply BitVec.eq_of_getLsbD_eq
  intro i hi
  interval_cases i <;>
    simp [PktFields.word, cutPacket, packetSeq, packetType, BitField.cut, BitField.put, BitField.width, pktLayout]

/-- The type of a built packet header word. -/
theorem packetType_word (p : PktFields) (t : BitVec 4) : packetType (p.word t) = t := by
  apply BitVec.eq_of_getLsbD_eq
  intro i hi
  interval_cases i <;> simp [PktFields.word, packetType, BitField.cut, BitField.put, BitField.width, pktLayout]

/-- The sequence number of a built packet header word. -/
theorem packetSeq_word (p : PktFields) (t : BitVec 4) : packetSeq (p.word t) = p.seq := by
  apply BitVec.eq_of_getLsbD_eq
  intro i hi
  interval_cases i <;> simp [PktFields.word, packetSeq, BitField.cut, BitField.put, BitField.width, pktLayout]

/-- The word of `ExpectedHeader` when MAJOR = 2, field by field (R65, R93). -/
theorem expectedHeader_v2_bits (raw n id info : Word) :
    expectedHeader .v2 raw n id info =
      2#4 ++ id.setWidth 12 ++ n.setWidth 8 ++ raw.setWidth 4 ++ info.setWidth 4 := by
  apply BitVec.eq_of_getLsbD_eq
  intro i hi
  simp only [BitVec.getLsbD_append]
  interval_cases i <;>
    simp [expectedHeader, packHeader, BitField.put, BitField.width, buildHeader, Major.layout, Major.code]

/-- The word of `ExpectedHeader` when MAJOR = 1, field by field, the direction bit set (R66, R93). -/
theorem expectedHeader_v1_bits (raw n id info : Word) :
    expectedHeader .v1 raw n id info =
      1#4 ++ id.setWidth 11 ++ n.setWidth 9 ++ raw.setWidth 5 ++ 1#1 ++ info.setWidth 2 := by
  apply BitVec.eq_of_getLsbD_eq
  intro i hi
  simp only [BitVec.getLsbD_append]
  interval_cases i <;>
    simp [expectedHeader, packHeader, BitField.put, BitField.width, buildHeader, Major.layout, Major.code]

/-- The fields of a built packet header word. -/
theorem cutPacket_of_word (p : PktFields) (t : BitVec 4) : cutPacket (p.word t) = p := by
  obtain ⟨v, r, s, b⟩ := p
  have hv : pktLayout.ver.cut 4 (PktFields.word ⟨v, r, s, b⟩ t) = v := by
    apply BitVec.eq_of_getLsbD_eq
    intro i hi
    interval_cases i <;> simp [PktFields.word, BitField.cut, BitField.put, BitField.width, pktLayout]
  have hr : pktLayout.rsvd.cut 4 (PktFields.word ⟨v, r, s, b⟩ t) = r := by
    apply BitVec.eq_of_getLsbD_eq
    intro i hi
    interval_cases i <;> simp [PktFields.word, BitField.cut, BitField.put, BitField.width, pktLayout]
  have hb : pktLayout.byteOrder.cut 4 (PktFields.word ⟨v, r, s, b⟩ t) = b := by
    apply BitVec.eq_of_getLsbD_eq
    intro i hi
    interval_cases i <;> simp [PktFields.word, BitField.cut, BitField.put, BitField.width, pktLayout]
  simp [cutPacket, hv, hr, hb, packetSeq_word]

/-- The fields of a built MAJOR = 2 header word. -/
theorem cutV2_of_word (h : HdrV2) (ver : BitVec 4) (raw : BitVec 5) : cutV2 (h.word ver raw) = h := by
  obtain ⟨t, c, f⟩ := h
  simp [cutV2, HdrV2.word, buildHeader_v2_tid, buildHeader_v2_wc, buildHeader_v2_info]

/-- The fields of a built MAJOR = 1 header word. -/
theorem cutV1_of_word (h : HdrV1) (ver : BitVec 4) (raw : BitVec 5) : cutV1 (h.word ver raw) = h := by
  obtain ⟨t, c, f⟩ := h
  simp [cutV1, HdrV1.word, buildHeader_v1_tid, buildHeader_v1_wc, buildHeader_v1_info]

/-- The version of a built MAJOR = 2 header word. -/
theorem ver_of_wordV2 (h : HdrV2) (ver : BitVec 4) (raw : BitVec 5) :
    Major.v2.layout.ver.cut 4 (h.word ver raw) = ver := by
  simp [HdrV2.word, buildHeader_v2_ver]

/-- The type field of a built MAJOR = 2 header word, 4 bits wide. -/
theorem typeRaw_of_wordV2 (h : HdrV2) (ver : BitVec 4) (raw : BitVec 5) :
    Major.v2.layout.typeRaw.cut 4 (h.word ver raw) = raw.setWidth 4 := by
  simp [HdrV2.word, buildHeader_v2_typeRaw]

/-- The version of a built MAJOR = 1 header word. -/
theorem ver_of_wordV1 (h : HdrV1) (ver : BitVec 4) (raw : BitVec 5) :
    Major.v1.layout.ver.cut 4 (h.word ver raw) = ver := by
  simp [HdrV1.word, buildHeader_v1_ver]

/-- The type field of a built MAJOR = 1 header word. -/
theorem typeRaw_of_wordV1 (h : HdrV1) (ver : BitVec 4) (raw : BitVec 5) :
    Major.v1.layout.typeRaw.cut 5 (h.word ver raw) = raw := by
  simp [HdrV1.word, buildHeader_v1_typeRaw]

end Sys2Proof
end

