-- ==== Sys2Proof/Laws/State.lean ====
section
/-! SUPPORT. For every update of the state, what each field holds after it: one lemma per field per update. -/

namespace Sys2Proof.Machine

/-! ### `State.memWrite` -/

@[simp] theorem State.memWrite_cfg (s : State) (a v : Word) : (s.memWrite a v).cfg = s.cfg := rfl
@[simp] theorem State.memWrite_rx (s : State) (a v : Word) : (s.memWrite a v).rx = s.rx := rfl
@[simp] theorem State.memWrite_byteCount (s : State) (a v : Word) : (s.memWrite a v).byteCount = s.byteCount := rfl
@[simp] theorem State.memWrite_start (s : State) (a v : Word) : (s.memWrite a v).start = s.start := rfl
@[simp] theorem State.memWrite_phase (s : State) (a v : Word) : (s.memWrite a v).phase = s.phase := rfl
@[simp] theorem State.memWrite_done (s : State) (a v : Word) : (s.memWrite a v).done = s.done := rfl
@[simp] theorem State.memWrite_n (s : State) (a v : Word) : (s.memWrite a v).n = s.n := rfl
@[simp] theorem State.memWrite_pc (s : State) (a v : Word) : (s.memWrite a v).pc = s.pc := rfl
@[simp] theorem State.memWrite_pkt (s : State) (a v : Word) : (s.memWrite a v).pkt = s.pkt := rfl
@[simp] theorem State.memWrite_txn (s : State) (a v : Word) : (s.memWrite a v).txn = s.txn := rfl
@[simp] theorem State.memWrite_addr (s : State) (a v : Word) : (s.memWrite a v).addr = s.addr := rfl
@[simp] theorem State.memWrite_expected (s : State) (a v : Word) : (s.memWrite a v).expected = s.expected := rfl
@[simp] theorem State.memWrite_reply (s : State) (a v : Word) : (s.memWrite a v).reply = s.reply := rfl
@[simp] theorem State.memWrite_reg (s : State) (a v : Word) : (s.memWrite a v).reg = s.reg.write (s.ea a) v := rfl
@[simp] theorem State.memWrite_history (s : State) (a v : Word) : (s.memWrite a v).history = s.history := rfl
@[simp] theorem State.memWrite_traffic (s : State) (a v : Word) : (s.memWrite a v).traffic = s.traffic := rfl
@[simp] theorem State.memWrite_recvRing (s : State) (a v : Word) : (s.memWrite a v).recvRing = s.recvRing := rfl
@[simp] theorem State.memWrite_sentRing (s : State) (a v : Word) : (s.memWrite a v).sentRing = s.sentRing := rfl
@[simp] theorem State.memWrite_lastCtrlHdr (s : State) (a v : Word) : (s.memWrite a v).lastCtrlHdr = s.lastCtrlHdr := rfl
@[simp] theorem State.memWrite_delay (s : State) (a v : Word) : (s.memWrite a v).delay = s.delay := rfl
@[simp] theorem State.memWrite_ea (s : State) (a v : Word) (b : Word) : (s.memWrite a v).ea b = s.ea b := rfl

/-! ### `State.advance` -/

@[simp] theorem State.advance_cfg (s : State) (k : Nat) : (s.advance k).cfg = s.cfg := rfl
@[simp] theorem State.advance_rx (s : State) (k : Nat) : (s.advance k).rx = s.rx := rfl
@[simp] theorem State.advance_byteCount (s : State) (k : Nat) : (s.advance k).byteCount = s.byteCount := rfl
@[simp] theorem State.advance_start (s : State) (k : Nat) : (s.advance k).start = s.start := rfl
@[simp] theorem State.advance_phase (s : State) (k : Nat) : (s.advance k).phase = s.phase := rfl
@[simp] theorem State.advance_done (s : State) (k : Nat) : (s.advance k).done = s.done := rfl
@[simp] theorem State.advance_n (s : State) (k : Nat) : (s.advance k).n = s.n := rfl
@[simp] theorem State.advance_pc (s : State) (k : Nat) : (s.advance k).pc = s.pc + k := rfl
@[simp] theorem State.advance_pkt (s : State) (k : Nat) : (s.advance k).pkt = s.pkt := rfl
@[simp] theorem State.advance_txn (s : State) (k : Nat) : (s.advance k).txn = s.txn := rfl
@[simp] theorem State.advance_addr (s : State) (k : Nat) : (s.advance k).addr = s.addr := rfl
@[simp] theorem State.advance_expected (s : State) (k : Nat) : (s.advance k).expected = s.expected := rfl
@[simp] theorem State.advance_reply (s : State) (k : Nat) : (s.advance k).reply = s.reply := rfl
@[simp] theorem State.advance_reg (s : State) (k : Nat) : (s.advance k).reg = s.reg := rfl
@[simp] theorem State.advance_history (s : State) (k : Nat) : (s.advance k).history = s.history := rfl
@[simp] theorem State.advance_traffic (s : State) (k : Nat) : (s.advance k).traffic = s.traffic := rfl
@[simp] theorem State.advance_recvRing (s : State) (k : Nat) : (s.advance k).recvRing = s.recvRing := rfl
@[simp] theorem State.advance_sentRing (s : State) (k : Nat) : (s.advance k).sentRing = s.sentRing := rfl
@[simp] theorem State.advance_lastCtrlHdr (s : State) (k : Nat) : (s.advance k).lastCtrlHdr = s.lastCtrlHdr := rfl
@[simp] theorem State.advance_delay (s : State) (k : Nat) : (s.advance k).delay = s.delay := rfl
@[simp] theorem State.advance_memRead (s : State) (k : Nat) (b : Word) : (s.advance k).memRead b = s.memRead b := rfl
@[simp] theorem State.advance_ea (s : State) (k : Nat) (b : Word) : (s.advance k).ea b = s.ea b := rfl

/-! ### `State.latchPacket` -/

@[simp] theorem State.latchPacket_cfg (s : State) (w : Word) : (s.latchPacket w).cfg = s.cfg := rfl
@[simp] theorem State.latchPacket_rx (s : State) (w : Word) : (s.latchPacket w).rx = s.rx := rfl
@[simp] theorem State.latchPacket_byteCount (s : State) (w : Word) : (s.latchPacket w).byteCount = s.byteCount := rfl
@[simp] theorem State.latchPacket_start (s : State) (w : Word) : (s.latchPacket w).start = s.start := rfl
@[simp] theorem State.latchPacket_phase (s : State) (w : Word) : (s.latchPacket w).phase = s.phase := rfl
@[simp] theorem State.latchPacket_done (s : State) (w : Word) : (s.latchPacket w).done = s.done := rfl
@[simp] theorem State.latchPacket_n (s : State) (w : Word) : (s.latchPacket w).n = s.n := rfl
@[simp] theorem State.latchPacket_pc (s : State) (w : Word) : (s.latchPacket w).pc = s.pc := rfl
@[simp] theorem State.latchPacket_pkt (s : State) (w : Word) : (s.latchPacket w).pkt = latchedPacket w := rfl
@[simp] theorem State.latchPacket_txn (s : State) (w : Word) : (s.latchPacket w).txn = s.txn := rfl
@[simp] theorem State.latchPacket_addr (s : State) (w : Word) : (s.latchPacket w).addr = s.addr := rfl
@[simp] theorem State.latchPacket_expected (s : State) (w : Word) : (s.latchPacket w).expected = s.expected := rfl
@[simp] theorem State.latchPacket_reply (s : State) (w : Word) : (s.latchPacket w).reply = s.reply := rfl
@[simp] theorem State.latchPacket_reg (s : State) (w : Word) : (s.latchPacket w).reg = s.reg := rfl
@[simp] theorem State.latchPacket_history (s : State) (w : Word) : (s.latchPacket w).history = s.history := rfl
@[simp] theorem State.latchPacket_traffic (s : State) (w : Word) : (s.latchPacket w).traffic = s.traffic := rfl
@[simp] theorem State.latchPacket_recvRing (s : State) (w : Word) : (s.latchPacket w).recvRing = s.recvRing := rfl
@[simp] theorem State.latchPacket_sentRing (s : State) (w : Word) : (s.latchPacket w).sentRing = s.sentRing := rfl
@[simp] theorem State.latchPacket_lastCtrlHdr (s : State) (w : Word) : (s.latchPacket w).lastCtrlHdr = s.lastCtrlHdr := rfl
@[simp] theorem State.latchPacket_delay (s : State) (w : Word) : (s.latchPacket w).delay = s.delay := rfl
@[simp] theorem State.latchPacket_memRead (s : State) (w : Word) (b : Word) : (s.latchPacket w).memRead b = s.memRead b := rfl
@[simp] theorem State.latchPacket_ea (s : State) (w : Word) (b : Word) : (s.latchPacket w).ea b = s.ea b := rfl

/-! ### `State.latchTxn` -/

@[simp] theorem State.latchTxn_cfg (s : State) (x : TxnHeader) : (s.latchTxn x).cfg = s.cfg := rfl
@[simp] theorem State.latchTxn_rx (s : State) (x : TxnHeader) : (s.latchTxn x).rx = s.rx := rfl
@[simp] theorem State.latchTxn_byteCount (s : State) (x : TxnHeader) : (s.latchTxn x).byteCount = s.byteCount := rfl
@[simp] theorem State.latchTxn_start (s : State) (x : TxnHeader) : (s.latchTxn x).start = s.start := rfl
@[simp] theorem State.latchTxn_phase (s : State) (x : TxnHeader) : (s.latchTxn x).phase = s.phase := rfl
@[simp] theorem State.latchTxn_done (s : State) (x : TxnHeader) : (s.latchTxn x).done = s.done := rfl
@[simp] theorem State.latchTxn_n (s : State) (x : TxnHeader) : (s.latchTxn x).n = s.n := rfl
@[simp] theorem State.latchTxn_pc (s : State) (x : TxnHeader) : (s.latchTxn x).pc = s.pc := rfl
@[simp] theorem State.latchTxn_pkt (s : State) (x : TxnHeader) : (s.latchTxn x).pkt = s.pkt := rfl
@[simp] theorem State.latchTxn_txn (s : State) (x : TxnHeader) : (s.latchTxn x).txn = x := rfl
@[simp] theorem State.latchTxn_addr (s : State) (x : TxnHeader) : (s.latchTxn x).addr = s.addr := rfl
@[simp] theorem State.latchTxn_expected (s : State) (x : TxnHeader) : (s.latchTxn x).expected = s.expected := rfl
@[simp] theorem State.latchTxn_reply (s : State) (x : TxnHeader) : (s.latchTxn x).reply = s.reply := rfl
@[simp] theorem State.latchTxn_reg (s : State) (x : TxnHeader) : (s.latchTxn x).reg = s.reg := rfl
@[simp] theorem State.latchTxn_history (s : State) (x : TxnHeader) : (s.latchTxn x).history = s.history := rfl
@[simp] theorem State.latchTxn_traffic (s : State) (x : TxnHeader) : (s.latchTxn x).traffic = s.traffic := rfl
@[simp] theorem State.latchTxn_recvRing (s : State) (x : TxnHeader) : (s.latchTxn x).recvRing = s.recvRing := rfl
@[simp] theorem State.latchTxn_sentRing (s : State) (x : TxnHeader) : (s.latchTxn x).sentRing = s.sentRing := rfl
@[simp] theorem State.latchTxn_lastCtrlHdr (s : State) (x : TxnHeader) : (s.latchTxn x).lastCtrlHdr = s.lastCtrlHdr := rfl
@[simp] theorem State.latchTxn_delay (s : State) (x : TxnHeader) : (s.latchTxn x).delay = s.delay := rfl
@[simp] theorem State.latchTxn_memRead (s : State) (x : TxnHeader) (b : Word) : (s.latchTxn x).memRead b = s.memRead b := rfl
@[simp] theorem State.latchTxn_ea (s : State) (x : TxnHeader) (b : Word) : (s.latchTxn x).ea b = s.ea b := rfl

/-! ### `State.latchAddr` -/

@[simp] theorem State.latchAddr_cfg (s : State) (a : Word) : (s.latchAddr a).cfg = s.cfg := rfl
@[simp] theorem State.latchAddr_rx (s : State) (a : Word) : (s.latchAddr a).rx = s.rx := rfl
@[simp] theorem State.latchAddr_byteCount (s : State) (a : Word) : (s.latchAddr a).byteCount = s.byteCount := rfl
@[simp] theorem State.latchAddr_start (s : State) (a : Word) : (s.latchAddr a).start = s.start := rfl
@[simp] theorem State.latchAddr_phase (s : State) (a : Word) : (s.latchAddr a).phase = s.phase := rfl
@[simp] theorem State.latchAddr_done (s : State) (a : Word) : (s.latchAddr a).done = s.done := rfl
@[simp] theorem State.latchAddr_n (s : State) (a : Word) : (s.latchAddr a).n = s.n := rfl
@[simp] theorem State.latchAddr_pc (s : State) (a : Word) : (s.latchAddr a).pc = s.pc := rfl
@[simp] theorem State.latchAddr_pkt (s : State) (a : Word) : (s.latchAddr a).pkt = s.pkt := rfl
@[simp] theorem State.latchAddr_txn (s : State) (a : Word) : (s.latchAddr a).txn = s.txn := rfl
@[simp] theorem State.latchAddr_addr (s : State) (a : Word) : (s.latchAddr a).addr = a := rfl
@[simp] theorem State.latchAddr_expected (s : State) (a : Word) : (s.latchAddr a).expected = s.expected := rfl
@[simp] theorem State.latchAddr_reply (s : State) (a : Word) : (s.latchAddr a).reply = s.reply := rfl
@[simp] theorem State.latchAddr_reg (s : State) (a : Word) : (s.latchAddr a).reg = s.reg := rfl
@[simp] theorem State.latchAddr_history (s : State) (a : Word) : (s.latchAddr a).history = s.history := rfl
@[simp] theorem State.latchAddr_traffic (s : State) (a : Word) : (s.latchAddr a).traffic = s.traffic := rfl
@[simp] theorem State.latchAddr_recvRing (s : State) (a : Word) : (s.latchAddr a).recvRing = s.recvRing := rfl
@[simp] theorem State.latchAddr_sentRing (s : State) (a : Word) : (s.latchAddr a).sentRing = s.sentRing := rfl
@[simp] theorem State.latchAddr_lastCtrlHdr (s : State) (a : Word) : (s.latchAddr a).lastCtrlHdr = s.lastCtrlHdr := rfl
@[simp] theorem State.latchAddr_delay (s : State) (a : Word) : (s.latchAddr a).delay = s.delay := rfl
@[simp] theorem State.latchAddr_memRead (s : State) (a : Word) (b : Word) : (s.latchAddr a).memRead b = s.memRead b := rfl
@[simp] theorem State.latchAddr_ea (s : State) (a : Word) (b : Word) : (s.latchAddr a).ea b = s.ea b := rfl

/-! ### `State.latchExpected` -/

@[simp] theorem State.latchExpected_cfg (s : State) (e : Word) : (s.latchExpected e).cfg = s.cfg := rfl
@[simp] theorem State.latchExpected_rx (s : State) (e : Word) : (s.latchExpected e).rx = s.rx := rfl
@[simp] theorem State.latchExpected_byteCount (s : State) (e : Word) : (s.latchExpected e).byteCount = s.byteCount := rfl
@[simp] theorem State.latchExpected_start (s : State) (e : Word) : (s.latchExpected e).start = s.start := rfl
@[simp] theorem State.latchExpected_phase (s : State) (e : Word) : (s.latchExpected e).phase = s.phase := rfl
@[simp] theorem State.latchExpected_done (s : State) (e : Word) : (s.latchExpected e).done = s.done := rfl
@[simp] theorem State.latchExpected_n (s : State) (e : Word) : (s.latchExpected e).n = s.n := rfl
@[simp] theorem State.latchExpected_pc (s : State) (e : Word) : (s.latchExpected e).pc = s.pc := rfl
@[simp] theorem State.latchExpected_pkt (s : State) (e : Word) : (s.latchExpected e).pkt = s.pkt := rfl
@[simp] theorem State.latchExpected_txn (s : State) (e : Word) : (s.latchExpected e).txn = s.txn := rfl
@[simp] theorem State.latchExpected_addr (s : State) (e : Word) : (s.latchExpected e).addr = s.addr := rfl
@[simp] theorem State.latchExpected_expected (s : State) (e : Word) : (s.latchExpected e).expected = e := rfl
@[simp] theorem State.latchExpected_reply (s : State) (e : Word) : (s.latchExpected e).reply = s.reply := rfl
@[simp] theorem State.latchExpected_reg (s : State) (e : Word) : (s.latchExpected e).reg = s.reg := rfl
@[simp] theorem State.latchExpected_history (s : State) (e : Word) : (s.latchExpected e).history = s.history := rfl
@[simp] theorem State.latchExpected_traffic (s : State) (e : Word) : (s.latchExpected e).traffic = s.traffic := rfl
@[simp] theorem State.latchExpected_recvRing (s : State) (e : Word) : (s.latchExpected e).recvRing = s.recvRing := rfl
@[simp] theorem State.latchExpected_sentRing (s : State) (e : Word) : (s.latchExpected e).sentRing = s.sentRing := rfl
@[simp] theorem State.latchExpected_lastCtrlHdr (s : State) (e : Word) : (s.latchExpected e).lastCtrlHdr = s.lastCtrlHdr := rfl
@[simp] theorem State.latchExpected_delay (s : State) (e : Word) : (s.latchExpected e).delay = s.delay := rfl
@[simp] theorem State.latchExpected_memRead (s : State) (e : Word) (b : Word) : (s.latchExpected e).memRead b = s.memRead b := rfl
@[simp] theorem State.latchExpected_ea (s : State) (e : Word) (b : Word) : (s.latchExpected e).ea b = s.ea b := rfl

/-! ### `State.emit` -/

@[simp] theorem State.emit_cfg (s : State) (ws : List Word) : (s.emit ws).cfg = s.cfg := rfl
@[simp] theorem State.emit_rx (s : State) (ws : List Word) : (s.emit ws).rx = s.rx := rfl
@[simp] theorem State.emit_byteCount (s : State) (ws : List Word) : (s.emit ws).byteCount = s.byteCount := rfl
@[simp] theorem State.emit_start (s : State) (ws : List Word) : (s.emit ws).start = s.start := rfl
@[simp] theorem State.emit_phase (s : State) (ws : List Word) : (s.emit ws).phase = s.phase := rfl
@[simp] theorem State.emit_done (s : State) (ws : List Word) : (s.emit ws).done = s.done := rfl
@[simp] theorem State.emit_n (s : State) (ws : List Word) : (s.emit ws).n = s.n := rfl
@[simp] theorem State.emit_pc (s : State) (ws : List Word) : (s.emit ws).pc = s.pc := rfl
@[simp] theorem State.emit_pkt (s : State) (ws : List Word) : (s.emit ws).pkt = s.pkt := rfl
@[simp] theorem State.emit_txn (s : State) (ws : List Word) : (s.emit ws).txn = s.txn := rfl
@[simp] theorem State.emit_addr (s : State) (ws : List Word) : (s.emit ws).addr = s.addr := rfl
@[simp] theorem State.emit_expected (s : State) (ws : List Word) : (s.emit ws).expected = s.expected := rfl
@[simp] theorem State.emit_reply (s : State) (ws : List Word) : (s.emit ws).reply = s.reply ++ ws := rfl
@[simp] theorem State.emit_reg (s : State) (ws : List Word) : (s.emit ws).reg = s.reg := rfl
@[simp] theorem State.emit_history (s : State) (ws : List Word) : (s.emit ws).history = s.history := rfl
@[simp] theorem State.emit_traffic (s : State) (ws : List Word) : (s.emit ws).traffic = s.traffic := rfl
@[simp] theorem State.emit_recvRing (s : State) (ws : List Word) : (s.emit ws).recvRing = s.recvRing := rfl
@[simp] theorem State.emit_sentRing (s : State) (ws : List Word) : (s.emit ws).sentRing = s.sentRing := rfl
@[simp] theorem State.emit_lastCtrlHdr (s : State) (ws : List Word) : (s.emit ws).lastCtrlHdr = s.lastCtrlHdr := rfl
@[simp] theorem State.emit_delay (s : State) (ws : List Word) : (s.emit ws).delay = s.delay := rfl
@[simp] theorem State.emit_memRead (s : State) (ws : List Word) (b : Word) : (s.emit ws).memRead b = s.memRead b := rfl
@[simp] theorem State.emit_ea (s : State) (ws : List Word) (b : Word) : (s.emit ws).ea b = s.ea b := rfl

/-! ### `State.replaceReply` -/

@[simp] theorem State.replaceReply_cfg (s : State) (ws : List Word) : (s.replaceReply ws).cfg = s.cfg := rfl
@[simp] theorem State.replaceReply_rx (s : State) (ws : List Word) : (s.replaceReply ws).rx = s.rx := rfl
@[simp] theorem State.replaceReply_byteCount (s : State) (ws : List Word) : (s.replaceReply ws).byteCount = s.byteCount := rfl
@[simp] theorem State.replaceReply_start (s : State) (ws : List Word) : (s.replaceReply ws).start = s.start := rfl
@[simp] theorem State.replaceReply_phase (s : State) (ws : List Word) : (s.replaceReply ws).phase = s.phase := rfl
@[simp] theorem State.replaceReply_done (s : State) (ws : List Word) : (s.replaceReply ws).done = s.done := rfl
@[simp] theorem State.replaceReply_n (s : State) (ws : List Word) : (s.replaceReply ws).n = s.n := rfl
@[simp] theorem State.replaceReply_pc (s : State) (ws : List Word) : (s.replaceReply ws).pc = s.pc := rfl
@[simp] theorem State.replaceReply_pkt (s : State) (ws : List Word) : (s.replaceReply ws).pkt = s.pkt := rfl
@[simp] theorem State.replaceReply_txn (s : State) (ws : List Word) : (s.replaceReply ws).txn = s.txn := rfl
@[simp] theorem State.replaceReply_addr (s : State) (ws : List Word) : (s.replaceReply ws).addr = s.addr := rfl
@[simp] theorem State.replaceReply_expected (s : State) (ws : List Word) : (s.replaceReply ws).expected = s.expected := rfl
@[simp] theorem State.replaceReply_reply (s : State) (ws : List Word) : (s.replaceReply ws).reply = ws := rfl
@[simp] theorem State.replaceReply_reg (s : State) (ws : List Word) : (s.replaceReply ws).reg = s.reg := rfl
@[simp] theorem State.replaceReply_history (s : State) (ws : List Word) : (s.replaceReply ws).history = s.history := rfl
@[simp] theorem State.replaceReply_traffic (s : State) (ws : List Word) : (s.replaceReply ws).traffic = s.traffic := rfl
@[simp] theorem State.replaceReply_recvRing (s : State) (ws : List Word) : (s.replaceReply ws).recvRing = s.recvRing := rfl
@[simp] theorem State.replaceReply_sentRing (s : State) (ws : List Word) : (s.replaceReply ws).sentRing = s.sentRing := rfl
@[simp] theorem State.replaceReply_lastCtrlHdr (s : State) (ws : List Word) : (s.replaceReply ws).lastCtrlHdr = s.lastCtrlHdr := rfl
@[simp] theorem State.replaceReply_delay (s : State) (ws : List Word) : (s.replaceReply ws).delay = s.delay := rfl
@[simp] theorem State.replaceReply_memRead (s : State) (ws : List Word) (b : Word) : (s.replaceReply ws).memRead b = s.memRead b := rfl
@[simp] theorem State.replaceReply_ea (s : State) (ws : List Word) (b : Word) : (s.replaceReply ws).ea b = s.ea b := rfl

/-! ### `State.recordCtrl` -/

@[simp] theorem State.recordCtrl_cfg (s : State) (w : Word) : (s.recordCtrl w).cfg = s.cfg := rfl
@[simp] theorem State.recordCtrl_rx (s : State) (w : Word) : (s.recordCtrl w).rx = s.rx := rfl
@[simp] theorem State.recordCtrl_byteCount (s : State) (w : Word) : (s.recordCtrl w).byteCount = s.byteCount := rfl
@[simp] theorem State.recordCtrl_start (s : State) (w : Word) : (s.recordCtrl w).start = s.start := rfl
@[simp] theorem State.recordCtrl_phase (s : State) (w : Word) : (s.recordCtrl w).phase = s.phase := rfl
@[simp] theorem State.recordCtrl_done (s : State) (w : Word) : (s.recordCtrl w).done = s.done := rfl
@[simp] theorem State.recordCtrl_n (s : State) (w : Word) : (s.recordCtrl w).n = s.n := rfl
@[simp] theorem State.recordCtrl_pc (s : State) (w : Word) : (s.recordCtrl w).pc = s.pc := rfl
@[simp] theorem State.recordCtrl_pkt (s : State) (w : Word) : (s.recordCtrl w).pkt = s.pkt := rfl
@[simp] theorem State.recordCtrl_txn (s : State) (w : Word) : (s.recordCtrl w).txn = s.txn := rfl
@[simp] theorem State.recordCtrl_addr (s : State) (w : Word) : (s.recordCtrl w).addr = s.addr := rfl
@[simp] theorem State.recordCtrl_expected (s : State) (w : Word) : (s.recordCtrl w).expected = s.expected := rfl
@[simp] theorem State.recordCtrl_reply (s : State) (w : Word) : (s.recordCtrl w).reply = s.reply := rfl
@[simp] theorem State.recordCtrl_reg (s : State) (w : Word) : (s.recordCtrl w).reg = s.reg := rfl
@[simp] theorem State.recordCtrl_history (s : State) (w : Word) : (s.recordCtrl w).history = s.history := rfl
@[simp] theorem State.recordCtrl_traffic (s : State) (w : Word) : (s.recordCtrl w).traffic = s.traffic := rfl
@[simp] theorem State.recordCtrl_recvRing (s : State) (w : Word) : (s.recordCtrl w).recvRing = s.recvRing := rfl
@[simp] theorem State.recordCtrl_sentRing (s : State) (w : Word) : (s.recordCtrl w).sentRing = s.sentRing := rfl
@[simp] theorem State.recordCtrl_lastCtrlHdr (s : State) (w : Word) : (s.recordCtrl w).lastCtrlHdr = w := rfl
@[simp] theorem State.recordCtrl_delay (s : State) (w : Word) : (s.recordCtrl w).delay = s.delay := rfl
@[simp] theorem State.recordCtrl_memRead (s : State) (w : Word) (b : Word) : (s.recordCtrl w).memRead b = s.memRead b := rfl
@[simp] theorem State.recordCtrl_ea (s : State) (w : Word) (b : Word) : (s.recordCtrl w).ea b = s.ea b := rfl

/-! ### `State.pushTraffic` -/

@[simp] theorem State.pushTraffic_cfg (s : State) (c : BitVec 8) : (s.pushTraffic c).cfg = s.cfg := rfl
@[simp] theorem State.pushTraffic_rx (s : State) (c : BitVec 8) : (s.pushTraffic c).rx = s.rx := rfl
@[simp] theorem State.pushTraffic_byteCount (s : State) (c : BitVec 8) : (s.pushTraffic c).byteCount = s.byteCount := rfl
@[simp] theorem State.pushTraffic_start (s : State) (c : BitVec 8) : (s.pushTraffic c).start = s.start := rfl
@[simp] theorem State.pushTraffic_phase (s : State) (c : BitVec 8) : (s.pushTraffic c).phase = s.phase := rfl
@[simp] theorem State.pushTraffic_done (s : State) (c : BitVec 8) : (s.pushTraffic c).done = s.done := rfl
@[simp] theorem State.pushTraffic_n (s : State) (c : BitVec 8) : (s.pushTraffic c).n = s.n := rfl
@[simp] theorem State.pushTraffic_pc (s : State) (c : BitVec 8) : (s.pushTraffic c).pc = s.pc := rfl
@[simp] theorem State.pushTraffic_pkt (s : State) (c : BitVec 8) : (s.pushTraffic c).pkt = s.pkt := rfl
@[simp] theorem State.pushTraffic_txn (s : State) (c : BitVec 8) : (s.pushTraffic c).txn = s.txn := rfl
@[simp] theorem State.pushTraffic_addr (s : State) (c : BitVec 8) : (s.pushTraffic c).addr = s.addr := rfl
@[simp] theorem State.pushTraffic_expected (s : State) (c : BitVec 8) : (s.pushTraffic c).expected = s.expected := rfl
@[simp] theorem State.pushTraffic_reply (s : State) (c : BitVec 8) : (s.pushTraffic c).reply = s.reply := rfl
@[simp] theorem State.pushTraffic_reg (s : State) (c : BitVec 8) : (s.pushTraffic c).reg = s.reg := rfl
@[simp] theorem State.pushTraffic_history (s : State) (c : BitVec 8) : (s.pushTraffic c).history = s.history := rfl
@[simp] theorem State.pushTraffic_traffic (s : State) (c : BitVec 8) : (s.pushTraffic c).traffic = ringPush s.traffic c := rfl
@[simp] theorem State.pushTraffic_recvRing (s : State) (c : BitVec 8) : (s.pushTraffic c).recvRing = s.recvRing := rfl
@[simp] theorem State.pushTraffic_sentRing (s : State) (c : BitVec 8) : (s.pushTraffic c).sentRing = s.sentRing := rfl
@[simp] theorem State.pushTraffic_lastCtrlHdr (s : State) (c : BitVec 8) : (s.pushTraffic c).lastCtrlHdr = s.lastCtrlHdr := rfl
@[simp] theorem State.pushTraffic_delay (s : State) (c : BitVec 8) : (s.pushTraffic c).delay = s.delay := rfl
@[simp] theorem State.pushTraffic_memRead (s : State) (c : BitVec 8) (b : Word) : (s.pushTraffic c).memRead b = s.memRead b := rfl
@[simp] theorem State.pushTraffic_ea (s : State) (c : BitVec 8) (b : Word) : (s.pushTraffic c).ea b = s.ea b := rfl

/-! ### `State.recordHeaders` -/

@[simp] theorem State.recordHeaders_cfg (s : State) : (s.recordHeaders).cfg = s.cfg := rfl
@[simp] theorem State.recordHeaders_rx (s : State) : (s.recordHeaders).rx = s.rx := rfl
@[simp] theorem State.recordHeaders_byteCount (s : State) : (s.recordHeaders).byteCount = s.byteCount := rfl
@[simp] theorem State.recordHeaders_start (s : State) : (s.recordHeaders).start = s.start := rfl
@[simp] theorem State.recordHeaders_phase (s : State) : (s.recordHeaders).phase = s.phase := rfl
@[simp] theorem State.recordHeaders_done (s : State) : (s.recordHeaders).done = s.done := rfl
@[simp] theorem State.recordHeaders_n (s : State) : (s.recordHeaders).n = s.n := rfl
@[simp] theorem State.recordHeaders_pc (s : State) : (s.recordHeaders).pc = s.pc := rfl
@[simp] theorem State.recordHeaders_pkt (s : State) : (s.recordHeaders).pkt = s.pkt := rfl
@[simp] theorem State.recordHeaders_txn (s : State) : (s.recordHeaders).txn = s.txn := rfl
@[simp] theorem State.recordHeaders_addr (s : State) : (s.recordHeaders).addr = s.addr := rfl
@[simp] theorem State.recordHeaders_expected (s : State) : (s.recordHeaders).expected = s.expected := rfl
@[simp] theorem State.recordHeaders_reply (s : State) : (s.recordHeaders).reply = s.reply := rfl
@[simp] theorem State.recordHeaders_reg (s : State) : (s.recordHeaders).reg = s.reg := rfl
@[simp] theorem State.recordHeaders_history (s : State) : (s.recordHeaders).history = s.history := rfl
@[simp] theorem State.recordHeaders_traffic (s : State) : (s.recordHeaders).traffic = s.traffic := rfl
@[simp] theorem State.recordHeaders_recvRing (s : State) : (s.recordHeaders).recvRing = ringPush s.recvRing s.pkt.hdr := rfl
@[simp] theorem State.recordHeaders_sentRing (s : State) : (s.recordHeaders).sentRing = ringPush s.sentRing s.expected := rfl
@[simp] theorem State.recordHeaders_lastCtrlHdr (s : State) : (s.recordHeaders).lastCtrlHdr = s.lastCtrlHdr := rfl
@[simp] theorem State.recordHeaders_delay (s : State) : (s.recordHeaders).delay = s.delay := rfl
@[simp] theorem State.recordHeaders_memRead (s : State) (b : Word) : (s.recordHeaders).memRead b = s.memRead b := rfl
@[simp] theorem State.recordHeaders_ea (s : State) (b : Word) : (s.recordHeaders).ea b = s.ea b := rfl

/-! ### `State.historyStore` -/

@[simp] theorem State.historyStore_cfg (s : State) (k : BitVec 16) (ws : List Word) : (s.historyStore k ws).cfg = s.cfg := rfl
@[simp] theorem State.historyStore_rx (s : State) (k : BitVec 16) (ws : List Word) : (s.historyStore k ws).rx = s.rx := rfl
@[simp] theorem State.historyStore_byteCount (s : State) (k : BitVec 16) (ws : List Word) : (s.historyStore k ws).byteCount = s.byteCount := rfl
@[simp] theorem State.historyStore_start (s : State) (k : BitVec 16) (ws : List Word) : (s.historyStore k ws).start = s.start := rfl
@[simp] theorem State.historyStore_phase (s : State) (k : BitVec 16) (ws : List Word) : (s.historyStore k ws).phase = s.phase := rfl
@[simp] theorem State.historyStore_done (s : State) (k : BitVec 16) (ws : List Word) : (s.historyStore k ws).done = s.done := rfl
@[simp] theorem State.historyStore_n (s : State) (k : BitVec 16) (ws : List Word) : (s.historyStore k ws).n = s.n := rfl
@[simp] theorem State.historyStore_pc (s : State) (k : BitVec 16) (ws : List Word) : (s.historyStore k ws).pc = s.pc := rfl
@[simp] theorem State.historyStore_pkt (s : State) (k : BitVec 16) (ws : List Word) : (s.historyStore k ws).pkt = s.pkt := rfl
@[simp] theorem State.historyStore_txn (s : State) (k : BitVec 16) (ws : List Word) : (s.historyStore k ws).txn = s.txn := rfl
@[simp] theorem State.historyStore_addr (s : State) (k : BitVec 16) (ws : List Word) : (s.historyStore k ws).addr = s.addr := rfl
@[simp] theorem State.historyStore_expected (s : State) (k : BitVec 16) (ws : List Word) : (s.historyStore k ws).expected = s.expected := rfl
@[simp] theorem State.historyStore_reply (s : State) (k : BitVec 16) (ws : List Word) : (s.historyStore k ws).reply = s.reply := rfl
@[simp] theorem State.historyStore_reg (s : State) (k : BitVec 16) (ws : List Word) : (s.historyStore k ws).reg = s.reg := rfl
@[simp] theorem State.historyStore_history (s : State) (k : BitVec 16) (ws : List Word) : (s.historyStore k ws).history = historyPush s.history k ws := rfl
@[simp] theorem State.historyStore_traffic (s : State) (k : BitVec 16) (ws : List Word) : (s.historyStore k ws).traffic = s.traffic := rfl
@[simp] theorem State.historyStore_recvRing (s : State) (k : BitVec 16) (ws : List Word) : (s.historyStore k ws).recvRing = s.recvRing := rfl
@[simp] theorem State.historyStore_sentRing (s : State) (k : BitVec 16) (ws : List Word) : (s.historyStore k ws).sentRing = s.sentRing := rfl
@[simp] theorem State.historyStore_lastCtrlHdr (s : State) (k : BitVec 16) (ws : List Word) : (s.historyStore k ws).lastCtrlHdr = s.lastCtrlHdr := rfl
@[simp] theorem State.historyStore_delay (s : State) (k : BitVec 16) (ws : List Word) : (s.historyStore k ws).delay = s.delay := rfl
@[simp] theorem State.historyStore_memRead (s : State) (k : BitVec 16) (ws : List Word) (b : Word) : (s.historyStore k ws).memRead b = s.memRead b := rfl
@[simp] theorem State.historyStore_ea (s : State) (k : BitVec 16) (ws : List Word) (b : Word) : (s.historyStore k ws).ea b = s.ea b := rfl

/-! ### `State.consumeDelay` -/

@[simp] theorem State.consumeDelay_cfg (s : State) : (s.consumeDelay).cfg = s.cfg := rfl
@[simp] theorem State.consumeDelay_rx (s : State) : (s.consumeDelay).rx = s.rx := rfl
@[simp] theorem State.consumeDelay_byteCount (s : State) : (s.consumeDelay).byteCount = s.byteCount := rfl
@[simp] theorem State.consumeDelay_start (s : State) : (s.consumeDelay).start = s.start := rfl
@[simp] theorem State.consumeDelay_phase (s : State) : (s.consumeDelay).phase = s.phase := rfl
@[simp] theorem State.consumeDelay_done (s : State) : (s.consumeDelay).done = s.done := rfl
@[simp] theorem State.consumeDelay_n (s : State) : (s.consumeDelay).n = s.n := rfl
@[simp] theorem State.consumeDelay_pc (s : State) : (s.consumeDelay).pc = s.pc := rfl
@[simp] theorem State.consumeDelay_pkt (s : State) : (s.consumeDelay).pkt = s.pkt := rfl
@[simp] theorem State.consumeDelay_txn (s : State) : (s.consumeDelay).txn = s.txn := rfl
@[simp] theorem State.consumeDelay_addr (s : State) : (s.consumeDelay).addr = s.addr := rfl
@[simp] theorem State.consumeDelay_expected (s : State) : (s.consumeDelay).expected = s.expected := rfl
@[simp] theorem State.consumeDelay_reply (s : State) : (s.consumeDelay).reply = s.reply := rfl
@[simp] theorem State.consumeDelay_reg (s : State) : (s.consumeDelay).reg = s.reg := rfl
@[simp] theorem State.consumeDelay_history (s : State) : (s.consumeDelay).history = s.history := rfl
@[simp] theorem State.consumeDelay_traffic (s : State) : (s.consumeDelay).traffic = s.traffic := rfl
@[simp] theorem State.consumeDelay_recvRing (s : State) : (s.consumeDelay).recvRing = s.recvRing := rfl
@[simp] theorem State.consumeDelay_sentRing (s : State) : (s.consumeDelay).sentRing = s.sentRing := rfl
@[simp] theorem State.consumeDelay_lastCtrlHdr (s : State) : (s.consumeDelay).lastCtrlHdr = s.lastCtrlHdr := rfl
@[simp] theorem State.consumeDelay_delay (s : State) : (s.consumeDelay).delay = s.delay.afterFirst := rfl
@[simp] theorem State.consumeDelay_memRead (s : State) (b : Word) : (s.consumeDelay).memRead b = s.memRead b := rfl
@[simp] theorem State.consumeDelay_ea (s : State) (b : Word) : (s.consumeDelay).ea b = s.ea b := rfl

/-! ### `State.openInvocation` -/

@[simp] theorem State.openInvocation_cfg (s : State) : (s.openInvocation).cfg = s.cfg := rfl
@[simp] theorem State.openInvocation_rx (s : State) : (s.openInvocation).rx = s.rx := rfl
@[simp] theorem State.openInvocation_byteCount (s : State) : (s.openInvocation).byteCount = s.byteCount := rfl
@[simp] theorem State.openInvocation_start (s : State) : (s.openInvocation).start = false := rfl
@[simp] theorem State.openInvocation_phase (s : State) : (s.openInvocation).phase = .busy := rfl
@[simp] theorem State.openInvocation_done (s : State) : (s.openInvocation).done = false := rfl
@[simp] theorem State.openInvocation_n (s : State) : (s.openInvocation).n = s.requestedWords := rfl
@[simp] theorem State.openInvocation_pc (s : State) : (s.openInvocation).pc = 0 := rfl
@[simp] theorem State.openInvocation_pkt (s : State) : (s.openInvocation).pkt = s.pkt := rfl
@[simp] theorem State.openInvocation_txn (s : State) : (s.openInvocation).txn = s.txn := rfl
@[simp] theorem State.openInvocation_addr (s : State) : (s.openInvocation).addr = s.addr := rfl
@[simp] theorem State.openInvocation_expected (s : State) : (s.openInvocation).expected = s.expected := rfl
@[simp] theorem State.openInvocation_reply (s : State) : (s.openInvocation).reply = [] := rfl
@[simp] theorem State.openInvocation_reg (s : State) : (s.openInvocation).reg = s.reg := rfl
@[simp] theorem State.openInvocation_history (s : State) : (s.openInvocation).history = s.history := rfl
@[simp] theorem State.openInvocation_traffic (s : State) : (s.openInvocation).traffic = s.traffic := rfl
@[simp] theorem State.openInvocation_recvRing (s : State) : (s.openInvocation).recvRing = s.recvRing := rfl
@[simp] theorem State.openInvocation_sentRing (s : State) : (s.openInvocation).sentRing = s.sentRing := rfl
@[simp] theorem State.openInvocation_lastCtrlHdr (s : State) : (s.openInvocation).lastCtrlHdr = s.lastCtrlHdr := rfl
@[simp] theorem State.openInvocation_delay (s : State) : (s.openInvocation).delay = s.delay := rfl
@[simp] theorem State.openInvocation_memRead (s : State) (b : Word) : (s.openInvocation).memRead b = s.memRead b := rfl
@[simp] theorem State.openInvocation_ea (s : State) (b : Word) : (s.openInvocation).ea b = s.ea b := rfl

/-! ### `State.closeInvocation` -/

@[simp] theorem State.closeInvocation_cfg (s : State) : (s.closeInvocation).cfg = s.cfg := rfl
@[simp] theorem State.closeInvocation_rx (s : State) : (s.closeInvocation).rx = s.rx := rfl
@[simp] theorem State.closeInvocation_byteCount (s : State) : (s.closeInvocation).byteCount = s.byteCount := rfl
@[simp] theorem State.closeInvocation_start (s : State) : (s.closeInvocation).start = s.start := rfl
@[simp] theorem State.closeInvocation_phase (s : State) : (s.closeInvocation).phase = .idle := rfl
@[simp] theorem State.closeInvocation_done (s : State) : (s.closeInvocation).done = true := rfl
@[simp] theorem State.closeInvocation_n (s : State) : (s.closeInvocation).n = s.n := rfl
@[simp] theorem State.closeInvocation_pc (s : State) : (s.closeInvocation).pc = s.pc := rfl
@[simp] theorem State.closeInvocation_pkt (s : State) : (s.closeInvocation).pkt = s.pkt := rfl
@[simp] theorem State.closeInvocation_txn (s : State) : (s.closeInvocation).txn = s.txn := rfl
@[simp] theorem State.closeInvocation_addr (s : State) : (s.closeInvocation).addr = s.addr := rfl
@[simp] theorem State.closeInvocation_expected (s : State) : (s.closeInvocation).expected = s.expected := rfl
@[simp] theorem State.closeInvocation_reply (s : State) : (s.closeInvocation).reply = s.reply := rfl
@[simp] theorem State.closeInvocation_reg (s : State) : (s.closeInvocation).reg = s.reg := rfl
@[simp] theorem State.closeInvocation_history (s : State) : (s.closeInvocation).history = s.history := rfl
@[simp] theorem State.closeInvocation_traffic (s : State) : (s.closeInvocation).traffic = s.traffic := rfl
@[simp] theorem State.closeInvocation_recvRing (s : State) : (s.closeInvocation).recvRing = s.recvRing := rfl
@[simp] theorem State.closeInvocation_sentRing (s : State) : (s.closeInvocation).sentRing = s.sentRing := rfl
@[simp] theorem State.closeInvocation_lastCtrlHdr (s : State) : (s.closeInvocation).lastCtrlHdr = s.lastCtrlHdr := rfl
@[simp] theorem State.closeInvocation_delay (s : State) : (s.closeInvocation).delay = s.delay := rfl
@[simp] theorem State.closeInvocation_memRead (s : State) (b : Word) : (s.closeInvocation).memRead b = s.memRead b := rfl
@[simp] theorem State.closeInvocation_ea (s : State) (b : Word) : (s.closeInvocation).ea b = s.ea b := rfl

end Sys2Proof.Machine
end

