-- ==== Sys2Proof/Laws/Memory.lean ====
section
/-! SUPPORT. The laws of the register file: read after write, the canonical form, and the block accesses. -/

namespace Sys2Proof.Machine

/-! ### The list -/

theorem Memory.read_insert (m : Memory) (a : Nat) (v : Word) (b : Nat) :
    (Memory.insert m a v).read b = if b = a then v else Memory.read m b := by
  induction m with
  | nil => simp [Memory.insert, Memory.read]
  | cons c m ih =>
    obtain ⟨k, w⟩ := c
    rcases Nat.lt_trichotomy a k with h | h | h
    · simp only [Memory.insert, if_pos h, Memory.read]
    · subst h
      by_cases hb : b = a <;> simp [Memory.insert, Memory.read, hb]
    · have h1 : ¬ a < k := by omega
      have h2 : ¬ a = k := by omega
      simp only [Memory.insert, if_neg h1, if_neg h2, Memory.read, ih]
      by_cases hb : b = k
      · have h3 : ¬ b = a := by omega
        rw [if_pos hb, if_neg h3, if_pos hb]
      · rw [if_neg hb, if_neg hb]

theorem Memory.read_erase (m : Memory) (a b : Nat) :
    (Memory.erase m a).read b = if b = a then Config.regInit b else Memory.read m b := by
  induction m with
  | nil => simp [Memory.erase, Memory.read]
  | cons c m ih =>
    obtain ⟨k, w⟩ := c
    by_cases hk : k = a
    · subst hk
      have he : Memory.erase ((k, w) :: m) k = Memory.erase m k := by simp [Memory.erase]
      rw [he, ih]
      by_cases hb : b = k <;> simp [Memory.read, hb]
    · have he : Memory.erase ((k, w) :: m) a = (k, w) :: Memory.erase m a := by simp [Memory.erase, hk]
      rw [he]
      simp only [Memory.read, ih]
      by_cases hb : b = k
      · subst hb; simp [hk]
      · simp [hb]

/-- A read after a write: the written word at its index, what was there before at every other. -/
theorem Memory.read_write (m : Memory) (a : Nat) (v : Word) (b : Nat) :
    (Memory.write m a v).read b = if b = a then v else Memory.read m b := by
  unfold Memory.write
  by_cases hv : v = Config.regInit a
  · rw [if_pos hv, Memory.read_erase]
    by_cases hb : b = a
    · subst hb; simp [hv]
    · simp [hb]
  · rw [if_neg hv, Memory.read_insert]

theorem Memory.wfFrom_mono {lo lo' : Nat} {m : Memory} (hl : lo' ≤ lo) (h : Memory.wfFrom lo m = true) :
    Memory.wfFrom lo' m = true := by
  cases m with
  | nil => rfl
  | cons c m =>
    simp only [Memory.wfFrom, Bool.and_eq_true, decide_eq_true_eq] at h ⊢
    exact ⟨⟨by omega, h.1.2⟩, h.2⟩

theorem Memory.wfFrom_insert {a : Nat} {v : Word} (hv : v ≠ Config.regInit a) :
    ∀ {lo : Nat} {m : Memory}, lo ≤ a → Memory.wfFrom lo m = true → Memory.wfFrom lo (Memory.insert m a v) = true
  | lo, [], hl, _ => by simp [Memory.insert, Memory.wfFrom, hv, hl]
  | lo, (k, w) :: m, hl, h => by
    simp only [Memory.wfFrom, Bool.and_eq_true, decide_eq_true_eq] at h
    simp only [Memory.insert]
    split_ifs with h1 h2
    · simp only [Memory.wfFrom, Bool.and_eq_true, decide_eq_true_eq]
      exact ⟨⟨hl, hv⟩, ⟨by omega, h.1.2⟩, h.2⟩
    · subst h2
      simp only [Memory.wfFrom, Bool.and_eq_true, decide_eq_true_eq]
      exact ⟨⟨hl, hv⟩, h.2⟩
    · simp only [Memory.wfFrom, Bool.and_eq_true, decide_eq_true_eq]
      exact ⟨h.1, Memory.wfFrom_insert hv (by omega) h.2⟩

theorem Memory.wfFrom_erase {a : Nat} :
    ∀ {lo : Nat} {m : Memory}, Memory.wfFrom lo m = true → Memory.wfFrom lo (Memory.erase m a) = true
  | _, [], h => h
  | lo, (k, w) :: m, h => by
    simp only [Memory.wfFrom, Bool.and_eq_true, decide_eq_true_eq] at h
    have ih : Memory.wfFrom (k + 1) (Memory.erase m a) = true := Memory.wfFrom_erase h.2
    by_cases hk : k = a
    · subst hk
      have he : Memory.erase ((k, w) :: m) k = Memory.erase m k := by simp [Memory.erase]
      rw [he]
      exact Memory.wfFrom_mono (by omega) ih
    · have he : Memory.erase ((k, w) :: m) a = (k, w) :: Memory.erase m a := by simp [Memory.erase, hk]
      rw [he]
      simp only [Memory.wfFrom, Bool.and_eq_true, decide_eq_true_eq]
      exact ⟨h.1, ih⟩

/-- A write keeps the canonical form. -/
theorem Memory.wf_write {m : Memory} (a : Nat) (v : Word) (h : m.wf = true) : (Memory.write m a v).wf = true := by
  unfold Memory.write
  split_ifs with hv
  · exact Memory.wfFrom_erase h
  · exact Memory.wfFrom_insert hv (Nat.zero_le _) h

theorem Memory.mem_insert {m : Memory} {a : Nat} {v : Word} {c : WordCell} (h : c ∈ Memory.insert m a v) :
    c = (a, v) ∨ c ∈ m := by
  induction m with
  | nil => simpa [Memory.insert] using h
  | cons d m ih =>
    obtain ⟨k, w⟩ := d
    simp only [Memory.insert] at h
    split_ifs at h with h1 h2
    · simpa using h
    · rcases List.mem_cons.mp h with h | h
      · exact .inl h
      · exact .inr (List.mem_cons_of_mem _ h)
    · rcases List.mem_cons.mp h with h | h
      · exact .inr (by simp [h])
      · rcases ih h with h | h
        · exact .inl h
        · exact .inr (List.mem_cons_of_mem _ h)

/-- What a write lists was listed before, or is the word written. -/
theorem Memory.mem_write {m : Memory} {a : Nat} {v : Word} {c : WordCell} (h : c ∈ Memory.write m a v) :
    c = (a, v) ∨ c ∈ m := by
  unfold Memory.write at h
  split_ifs at h with hv
  · exact .inr (List.mem_of_mem_filter h)
  · exact Memory.mem_insert h

/-! ### The block's register file -/

theorem State.ea_le (s : State) (a : Word) : s.ea a ≤ s.cfg.addrMask.toNat := by
  simp only [State.ea, BitVec.toNat_and]
  exact Nat.and_le_right

/-- A read after a write (R41, R42): the written word at the addresses that name it, every other word unchanged. -/
theorem State.memRead_memWrite (s : State) (a v b : Word) :
    (s.memWrite a v).memRead b = if s.ea b = s.ea a then v else s.memRead b := by
  simp [State.memRead, Memory.read_write]

/-- An incrementing write changes the register file and nothing else. -/
theorem State.writeBlock_eq (base : Word) : ∀ (ds : List Word) (s : State) (i : Nat),
    s.writeBlock base i ds = { s with reg := (s.writeBlock base i ds).reg }
  | [], _, _ => rfl
  | d :: ds, s, i => by
    rw [State.writeBlock, State.writeBlock_eq base ds]
    rfl

/-- A non-incrementing write changes the register file and nothing else. -/
theorem State.writeSame_eq (a : Word) : ∀ (ds : List Word) (s : State),
    s.writeSame a ds = { s with reg := (s.writeSame a ds).reg }
  | [], _ => rfl
  | d :: ds, s => by
    rw [State.writeSame, State.writeSame_eq a ds]
    rfl

theorem State.writeBlock_ea (base b : Word) (ds : List Word) (s : State) (i : Nat) :
    (s.writeBlock base i ds).ea b = s.ea b := by
  rw [State.writeBlock_eq]; rfl

theorem State.writeSame_ea (a b : Word) (ds : List Word) (s : State) : (s.writeSame a ds).ea b = s.ea b := by
  rw [State.writeSame_eq]; rfl

/-- An incrementing write leaves every word alone that is none of its block's. -/
theorem State.writeBlock_memRead_other (base b : Word) : ∀ (ds : List Word) (s : State) (i : Nat),
    (∀ k, k < ds.length → s.ea b ≠ s.ea (blockAddr base (i + k))) → (s.writeBlock base i ds).memRead b = s.memRead b
  | [], _, _, _ => rfl
  | d :: ds, s, i, h => by
    rw [State.writeBlock, State.writeBlock_memRead_other base b ds]
    · rw [State.memRead_memWrite, if_neg]
      simpa using h 0 (by simp)
    · intro k hk
      have h' := h (k + 1) (by simpa using hk)
      have he : i + (k + 1) = i + 1 + k := by omega
      rw [he] at h'
      exact h'

/-- A non-incrementing write leaves every other word alone, and ends with its last word (R104: "last write wins"). -/
theorem State.writeSame_memRead (a b : Word) : ∀ (ds : List Word) (s : State),
    (s.writeSame a ds).memRead b = if s.ea b = s.ea a then ds.getLastD (s.memRead b) else s.memRead b
  | [], s => by simp [State.writeSame]
  | d :: ds, s => by
    rw [State.writeSame, State.writeSame_memRead a b ds, State.memRead_memWrite]
    simp only [State.memWrite_ea]
    split_ifs with h
    · simp only [List.getLastD_cons]
    · rfl

theorem State.writeBlock_wf (base : Word) : ∀ (ds : List Word) (s : State) (i : Nat),
    s.reg.wf = true → (s.writeBlock base i ds).reg.wf = true
  | [], _, _, h => h
  | _ :: ds, _, i, h => State.writeBlock_wf base ds _ (i + 1) (Memory.wf_write _ _ h)

theorem State.writeSame_wf (a : Word) : ∀ (ds : List Word) (s : State),
    s.reg.wf = true → (s.writeSame a ds).reg.wf = true
  | [], _, h => h
  | _ :: ds, _, h => State.writeSame_wf a ds _ (Memory.wf_write _ _ h)

end Sys2Proof.Machine
end

