-- ==== Sys2Proof/Laws/Exec.lean ====
section
/-! SUPPORT. What each shared operation of the meanings does, said once as an equation of states, and what `exec` and `step`
can answer. -/

namespace Sys2Proof.Machine

/-! ### The handlers of the executor -/

/-- READ: everything it changes. -/
theorem State.doRead_eq (s : State) (t : TxnHeader) (a : Word) :
    s.doRead t a = { s with
      pc := s.pc + 2, txn := t, addr := a, expected := replyHeader s.cfg.major t (t.wc.setWidth 32) infoGood,
      reply := s.reply ++ [replyHeader s.cfg.major t (t.wc.setWidth 32) infoGood] ++ s.readBlock a t.wc.toNat,
      recvRing := ringPush s.recvRing s.pkt.hdr,
      sentRing := ringPush s.sentRing (replyHeader s.cfg.major t (t.wc.setWidth 32) infoGood) } := by
  simp only [State.doRead, State.respond, State.takeTxn, State.advance, State.latchTxn, State.latchAddr, State.latchExpected,
    State.emit, State.recordHeaders, State.readBlock, State.memRead, State.ea]

/-- NI_READ: everything it changes. -/
theorem State.doNiRead_eq (s : State) (t : TxnHeader) (a : Word) :
    s.doNiRead t a = { s with
      pc := s.pc + 2, txn := t, addr := a, expected := replyHeader s.cfg.major t (t.wc.setWidth 32) infoGood,
      reply := s.reply ++ [replyHeader s.cfg.major t (t.wc.setWidth 32) infoGood] ++ s.readSame a t.wc.toNat,
      recvRing := ringPush s.recvRing s.pkt.hdr,
      sentRing := ringPush s.sentRing (replyHeader s.cfg.major t (t.wc.setWidth 32) infoGood) } := by
  simp only [State.doNiRead, State.respond, State.takeTxn, State.advance, State.latchTxn, State.latchAddr, State.latchExpected,
    State.emit, State.recordHeaders, State.readSame, State.memRead, State.ea]

theorem State.writeBlock_reg_latches (base : Word) : ∀ (ds : List Word) (s s' : State) (i : Nat),
    s'.reg = s.reg → s'.cfg = s.cfg → (s'.writeBlock base i ds).reg = (s.writeBlock base i ds).reg
  | [], _, _, _, hr, _ => hr
  | d :: ds, s, s', i, hr, hc => by
    have he : ∀ b, s'.ea b = s.ea b := fun b => by simp [State.ea, hc]
    exact State.writeBlock_reg_latches base ds _ _ (i + 1) (by simp [hr, he]) (by simp [hc])

theorem State.writeSame_reg_latches (a : Word) : ∀ (ds : List Word) (s s' : State),
    s'.reg = s.reg → s'.cfg = s.cfg → (s'.writeSame a ds).reg = (s.writeSame a ds).reg
  | [], _, _, hr, _ => hr
  | d :: ds, s, s', hr, hc => by
    have he : ∀ b, s'.ea b = s.ea b := fun b => by simp [State.ea, hc]
    exact State.writeSame_reg_latches a ds _ _ (by simp [hr, he]) (by simp [hc])

/-- WRITE: everything it changes. -/
theorem State.doWrite_eq (s : State) (t : TxnHeader) (a : Word) (d : List Word) :
    s.doWrite t a d = { s with
      pc := s.pc + (2 + d.length), txn := t, addr := a,
      expected := replyHeader s.cfg.major t (writeReplyCount s.cfg.major t.wc) infoGood,
      reply := s.reply ++ [replyHeader s.cfg.major t (writeReplyCount s.cfg.major t.wc) infoGood],
      reg := (s.writeBlock a 0 d).reg,
      recvRing := ringPush s.recvRing s.pkt.hdr,
      sentRing := ringPush s.sentRing (replyHeader s.cfg.major t (writeReplyCount s.cfg.major t.wc) infoGood) } := by
  have h : 1 + (1 + d.length) = 2 + d.length := by omega
  unfold State.doWrite
  rw [State.writeBlock_eq]
  simp [State.respond, State.latchExpected, State.emit, State.recordHeaders, State.takeTxn, State.latchAddr, State.latchTxn,
    State.advance, State.writeBlock_reg_latches a d s, h]

/-- NI_WRITE: everything it changes. -/
theorem State.doNiWrite_eq (s : State) (t : TxnHeader) (a : Word) (d : List Word) :
    s.doNiWrite t a d = { s with
      pc := s.pc + (2 + d.length), txn := t, addr := a,
      expected := replyHeader s.cfg.major t (writeReplyCount s.cfg.major t.wc) infoGood,
      reply := s.reply ++ [replyHeader s.cfg.major t (writeReplyCount s.cfg.major t.wc) infoGood],
      reg := (s.writeSame a d).reg,
      recvRing := ringPush s.recvRing s.pkt.hdr,
      sentRing := ringPush s.sentRing (replyHeader s.cfg.major t (writeReplyCount s.cfg.major t.wc) infoGood) } := by
  have h : 1 + (1 + d.length) = 2 + d.length := by omega
  unfold State.doNiWrite
  rw [State.writeSame_eq]
  simp [State.respond, State.latchExpected, State.emit, State.recordHeaders, State.takeTxn, State.latchAddr, State.latchTxn,
    State.advance, State.writeSame_reg_latches a d s, h]

/-- RMW_BITS: everything it changes. -/
theorem State.doRmwBits_eq (s : State) (t : TxnHeader) (a x y : Word) :
    s.doRmwBits t a x y = { s with
      pc := s.pc + 4, txn := t, addr := a, expected := replyHeader s.cfg.major t 1#32 infoGood,
      reply := s.reply ++ [replyHeader s.cfg.major t 1#32 infoGood] ++
        [rmwResult s.cfg.major (s.memRead a) (rmwBitsNew (s.memRead a) x y)],
      reg := (s.memWrite a (rmwBitsNew (s.memRead a) x y)).reg,
      recvRing := ringPush s.recvRing s.pkt.hdr,
      sentRing := ringPush s.sentRing (replyHeader s.cfg.major t 1#32 infoGood) } := by
  simp only [State.doRmwBits, State.respond, State.takeTxn, State.advance, State.latchTxn, State.latchAddr, State.latchExpected,
    State.emit, State.recordHeaders, State.rmwEnd, State.memWrite, State.ea, State.memRead]

/-- RMW_SUM: everything it changes. -/
theorem State.doRmwSum_eq (s : State) (t : TxnHeader) (a x : Word) :
    s.doRmwSum t a x = { s with
      pc := s.pc + 3, txn := t, addr := a, expected := replyHeader s.cfg.major t 1#32 infoGood,
      reply := s.reply ++ [replyHeader s.cfg.major t 1#32 infoGood] ++
        [rmwResult s.cfg.major (s.memRead a) (rmwSumNew (s.memRead a) x)],
      reg := (s.memWrite a (rmwSumNew (s.memRead a) x)).reg,
      recvRing := ringPush s.recvRing s.pkt.hdr,
      sentRing := ringPush s.sentRing (replyHeader s.cfg.major t 1#32 infoGood) } := by
  simp only [State.doRmwSum, State.respond, State.takeTxn, State.advance, State.latchTxn, State.latchAddr, State.latchExpected,
    State.emit, State.recordHeaders, State.rmwEnd, State.memWrite, State.ea, State.memRead]

/-- UNKNOWN: everything it changes. -/
theorem State.doUnknown_eq (s : State) (t : TxnHeader) :
    s.doUnknown t = { s with
      pc := s.pc + 1, txn := t, expected := replyHeader s.cfg.major t 0#32 infoUnknown,
      reply := s.reply ++ [replyHeader s.cfg.major t 0#32 infoUnknown],
      recvRing := ringPush s.recvRing s.pkt.hdr,
      sentRing := ringPush s.sentRing (replyHeader s.cfg.major t 0#32 infoUnknown) } := by
  simp only [State.doUnknown, State.respond, State.takeTxn, State.advance, State.latchTxn, State.latchExpected,
    State.emit, State.recordHeaders]

/-! ### The end of an invocation -/

/-- Steps 5 and 6 of R120: everything they change. -/
theorem State.finish_eq (s : State) :
    s.finish = { s with
      delay := s.delay.afterFirst, history := historyPush s.history s.pkt.seq s.reply, phase := .idle, done := true } := rfl

theorem Delay.afterFirst_eq (d : Delay) : d.afterFirst = .consumed := by cases d <;> rfl

/-! ### What step can do -/

/-- A step that answers a next state waits, ends an invocation or runs an instruction. -/
theorem step_cases {s t : State} (h : step s = .next t) :
    (s.nextUp = .wait ∧ t = s) ∨ (s.nextUp = .finish ∧ t = s.finish) ∨
      ∃ i u, s.nextUp = .run i u ∧ exec i u = .next t := by
  unfold step at h
  split at h
  · rename_i hn
    cases h
    exact .inl ⟨hn, rfl⟩
  · rename_i hn
    cases h
    exact .inr (.inl ⟨hn, rfl⟩)
  · rename_i i u hn
    exact .inr (.inr ⟨i, u, hn, h⟩)
  · cases h
  · cases h

/-- What runs is an instruction decoded at `pc`: the packet header of an invocation that has just begun, or a transaction
in the scan of a control packet. -/
theorem nextUp_run {s : State} {i : Instr} {u : State} (h : s.nextUp = .run i u) :
    (s.phase = .idle ∧ s.start = true ∧ 1 ≤ s.requestedWords ∧ s.requestedWords ≤ s.cfg.rxBufWords ∧
        u = s.openInvocation ∧ ∃ rest, decode .packet u.window = .ok (i, rest)) ∨
      (s.phase = .busy ∧ s.pkt.kind = .control ∧ s.pc < s.n ∧ u = s ∧
        ∃ rest, decode s.cfg.major.table s.window = .ok (i, rest)) := by
  unfold State.nextUp at h
  split at h
  · rename_i hp
    split at h
    · rename_i hs
      split at h
      · cases h
      · split at h
        · cases h
        · rename_i h0 h1
          unfold State.fetch at h
          split at h
          · rename_i j rest hd
            cases h
            exact .inl ⟨hp, hs, by omega, by omega, rfl, rest, hd⟩
          · cases h
    · cases h
  · rename_i hp
    split at h
    · rename_i hs
      simp only [State.scanning, Bool.and_eq_true, decide_eq_true_eq] at hs
      unfold State.fetch at h
      split at h
      · rename_i j rest hd
        cases h
        exact .inr ⟨hp, hs.1, hs.2, rfl, rest, hd⟩
      · cases h
    · cases h

/-! ### The window of words that Fetch can still give -/

@[simp] theorem State.window_length (s : State) : s.window.length = s.n - s.pc := by simp [State.window]

/-- While a word is left, the window begins with the word at `pc`. -/
theorem State.window_cons (s : State) (h : s.pc < s.n) :
    s.window = s.rxWord s.pc :: (List.range (s.n - s.pc - 1)).map fun k => s.rxWord (s.pc + 1 + k) := by
  obtain ⟨m, hm⟩ : ∃ m, s.n - s.pc = m + 1 := ⟨s.n - s.pc - 1, by omega⟩
  have h1 : s.n - s.pc - 1 = m := by omega
  rw [h1, State.window, hm, List.range_succ_eq_map, List.map_cons, List.map_map]
  refine congrArg _ (List.map_congr_left fun k _ => ?_)
  exact congrArg s.rxWord (by omega)

end Sys2Proof.Machine
end

