-- ==== Sys2Proof/Laws/Histories.lean ====
section
/-! SUPPORT. The laws of the rings and of the reply history. -/

namespace Sys2Proof.Machine

/-- A push shifts every entry one place towards the oldest and puts the new value last (R140). -/
theorem ringPush_getElem {α : Type} {n : Nat} (r : Vector α (n + 1)) (v : α) (i : Nat) (h : i < n + 1) :
    (ringPush r v)[i] = if h' : i + 1 < n + 1 then r[i + 1] else v := by
  simp only [ringPush, Vector.getElem_mk, List.getElem_toArray, List.getElem_append]
  split <;> rename_i h1
  · have h2 : i + 1 < n + 1 := by simpa using h1
    simp [h2]
  · have h2 : ¬ i + 1 < n + 1 := by simpa using h1
    simp [h2]

theorem ringPush_toList {α : Type} {n : Nat} (r : Vector α (n + 1)) (v : α) :
    (ringPush r v).toList = r.toList.tail ++ [v] := by simp [ringPush]

theorem mem_ringPush {α : Type} {n : Nat} {r : Vector α (n + 1)} {v e : α} (h : e ∈ (ringPush r v).toList) :
    e = v ∨ e ∈ r.toList := by
  rw [ringPush_toList] at h
  rcases List.mem_append.mp h with h | h
  · exact .inr (List.mem_of_mem_tail h)
  · exact .inl (by simpa using h)

/-- A store appends its pair, and drops the oldest pair when more than five are left (R143). -/
theorem historyPush_eq (h : List HistEntry) (k : BitVec 16) (ws : List Word) :
    historyPush h k ws = if 5 ≤ h.length then h.tail ++ [HistEntry.mk k ws] else h ++ [HistEntry.mk k ws] := by
  unfold historyPush
  simp only [replyHistoryDepth, List.length_append, List.length_singleton]
  by_cases hl : 5 ≤ h.length
  · have h1 : 5 < h.length + 1 := by omega
    have h2 : h ≠ [] := by intro h0; simp [h0] at hl
    rw [if_pos h1, if_pos hl, List.tail_append_of_ne_nil h2]
  · have h1 : ¬ 5 < h.length + 1 := by omega
    rw [if_neg h1, if_neg hl]

theorem historyPush_length (h : List HistEntry) (k : BitVec 16) (ws : List Word) (hl : h.length ≤ 5) :
    (historyPush h k ws).length ≤ 5 := by
  rw [historyPush_eq]
  split
  · simp; omega
  · simp; omega

/-- The pair just stored is the newest (R143). -/
theorem historyPush_getLast (h : List HistEntry) (k : BitVec 16) (ws : List Word) :
    (historyPush h k ws).getLast? = some (HistEntry.mk k ws) := by
  rw [historyPush_eq]
  split <;> simp

/-- The newest pair is looked at first (R144). -/
theorem historyFind_append (h : List HistEntry) (e : HistEntry) (k : BitVec 16) :
    historyFind (h ++ [e]) k = if e.key = k then some e.words else historyFind h k := by
  by_cases hk : e.key = k <;> simp [historyFind, hk]

/-- A lookup right after a store under the same key finds the words stored. -/
theorem historyFind_push_same (h : List HistEntry) (k : BitVec 16) (ws : List Word) :
    historyFind (historyPush h k ws) k = some ws := by
  rw [historyPush_eq]
  split <;> simp [historyFind_append]

end Sys2Proof.Machine
end

