-- ==== Sys2Proof/Laws/PerInstr.lean ====
section
/-! SUPPORT. Statements about every instruction as syntax, one lemma per constructor of `Instr`. -/

namespace Sys2Proof.Laws.EncodeLength

/-- A well-formed instruction is encoded in exactly the words R73 gives its header (R61: "A decoder learns the length of a
transaction from its header word alone"). -/
def Statement (i : Instr) : Prop := WellFormed i → (encode i).length = instrLen i

theorem pktCtrl (p : PktFields) : Statement (.pktCtrl p) := fun _ => rfl
theorem pktStatus (p : PktFields) : Statement (.pktStatus p) := fun _ => rfl
theorem pktResend (p : PktFields) : Statement (.pktResend p) := fun _ => rfl
theorem pktUnknown (p : PktFields) (ptype : BitVec 4) : Statement (.pktUnknown p ptype) := fun _ => rfl
theorem readV2 (h : HdrV2) (addr : Word) : Statement (.readV2 h addr) := fun _ => rfl
theorem writeV2 (h : HdrV2) (addr : Word) (data : List Word) : Statement (.writeV2 h addr data) := fun hw => by
  have hl : data.length = h.wc.toNat := by simpa [WellFormed, wellFormed] using hw
  simp [encode, bodyWords, instrLen, txnLen, hl]; omega
theorem niReadV2 (h : HdrV2) (addr : Word) : Statement (.niReadV2 h addr) := fun _ => rfl
theorem niWriteV2 (h : HdrV2) (addr : Word) (data : List Word) : Statement (.niWriteV2 h addr data) := fun hw => by
  have hl : data.length = h.wc.toNat := by simpa [WellFormed, wellFormed] using hw
  simp [encode, bodyWords, instrLen, txnLen, hl]; omega
theorem rmwBitsV2 (h : HdrV2) (addr andTerm orTerm : Word) : Statement (.rmwBitsV2 h addr andTerm orTerm) := fun _ => rfl
theorem rmwSumV2 (h : HdrV2) (addr addend : Word) : Statement (.rmwSumV2 h addr addend) := fun _ => rfl
theorem unknownV2 (h : HdrV2) (ver typeRaw : BitVec 4) : Statement (.unknownV2 h ver typeRaw) := fun _ => rfl
theorem readV1 (h : HdrV1) (addr : Word) : Statement (.readV1 h addr) := fun _ => rfl
theorem writeV1 (h : HdrV1) (addr : Word) (data : List Word) : Statement (.writeV1 h addr data) := fun hw => by
  have hl : data.length = h.wc.toNat := by simpa [WellFormed, wellFormed] using hw
  simp [encode, bodyWords, instrLen, txnLen, hl]; omega
theorem rmwBitsV1 (h : HdrV1) (addr andTerm orTerm : Word) : Statement (.rmwBitsV1 h addr andTerm orTerm) := fun _ => rfl
theorem rmwSumV1 (h : HdrV1) (addr addend : Word) : Statement (.rmwSumV1 h addr addend) := fun _ => rfl
theorem niReadV1 (h : HdrV1) (addr : Word) : Statement (.niReadV1 h addr) := fun _ => rfl
theorem niWriteV1 (h : HdrV1) (addr : Word) (data : List Word) : Statement (.niWriteV1 h addr data) := fun hw => by
  have hl : data.length = h.wc.toNat := by simpa [WellFormed, wellFormed] using hw
  simp [encode, bodyWords, instrLen, txnLen, hl]; omega
theorem unknownV1 (h : HdrV1) (ver : BitVec 4) (typeRaw : BitVec 5) : Statement (.unknownV1 h ver typeRaw) := fun _ => rfl

end Sys2Proof.Laws.EncodeLength

namespace Sys2Proof.Laws.RowMatch

/-- The `mask` and `match` of an instruction's row, as spec/opcode_table.json gives them. -/
def row : Instr → Word × Word
  | .pktCtrl _ => (0x0000000F#32, 0x00000000#32)
  | .pktStatus _ => (0x0000000F#32, 0x00000001#32)
  | .pktResend _ => (0x0000000F#32, 0x00000002#32)
  | .pktUnknown _ _ => (0#32, 0#32)
  | .readV2 _ _ => (0xF00000F0#32, 0x20000000#32)
  | .writeV2 _ _ _ => (0xF00000F0#32, 0x20000010#32)
  | .niReadV2 _ _ => (0xF00000F0#32, 0x20000020#32)
  | .niWriteV2 _ _ _ => (0xF00000F0#32, 0x20000030#32)
  | .rmwBitsV2 _ _ _ _ => (0xF00000F0#32, 0x20000040#32)
  | .rmwSumV2 _ _ _ => (0xF00000F0#32, 0x20000050#32)
  | .unknownV2 _ _ _ => (0#32, 0#32)
  | .readV1 _ _ => (0xF00000F8#32, 0x10000018#32)
  | .writeV1 _ _ _ => (0xF00000F8#32, 0x10000020#32)
  | .rmwBitsV1 _ _ _ _ => (0xF00000F8#32, 0x10000028#32)
  | .rmwSumV1 _ _ _ => (0xF00000F8#32, 0x10000030#32)
  | .niReadV1 _ _ => (0xF00000F8#32, 0x10000040#32)
  | .niWriteV1 _ _ _ => (0xF00000F8#32, 0x10000048#32)
  | .unknownV1 _ _ _ => (0#32, 0#32)

/-- The header word of an instruction matches its row of the table: `(word & mask) = match` (R77). -/
def Statement (i : Instr) : Prop := headerWord i &&& (row i).1 = (row i).2

/-- A packet header word under the mask of its type field. -/
theorem packet_row (p : PktFields) (t : BitVec 4) : p.word t &&& 0x0000000F#32 = t.setWidth 32 := by
  apply BitVec.eq_of_getLsbD_eq
  intro i hi
  interval_cases i <;> simp [PktFields.word, BitField.put, BitField.width, pktLayout]

/-- A MAJOR = 2 header word under the mask of its version and type fields. -/
theorem v2_row (h : HdrV2) (raw : BitVec 5) : h.word 2#4 raw &&& 0xF00000F0#32 = 0x20000000#32 ||| (raw.setWidth 4).setWidth 32 <<< 4 := by
  apply BitVec.eq_of_getLsbD_eq
  intro i hi
  interval_cases i <;> simp [HdrV2.word, buildHeader, Major.layout, BitField.put, BitField.width]

/-- A MAJOR = 1 header word under the mask of its version and type fields. -/
theorem v1_row (h : HdrV1) (raw : BitVec 5) : h.word 1#4 raw &&& 0xF00000F8#32 = 0x10000000#32 ||| raw.setWidth 32 <<< 3 := by
  apply BitVec.eq_of_getLsbD_eq
  intro i hi
  interval_cases i <;> simp [HdrV1.word, buildHeader, Major.layout, BitField.put, BitField.width]

theorem pktCtrl (p : PktFields) : Statement (.pktCtrl p) := packet_row p _
theorem pktStatus (p : PktFields) : Statement (.pktStatus p) := packet_row p _
theorem pktResend (p : PktFields) : Statement (.pktResend p) := packet_row p _
theorem pktUnknown (p : PktFields) (ptype : BitVec 4) : Statement (.pktUnknown p ptype) := by simp [Statement, row]
theorem readV2 (h : HdrV2) (addr : Word) : Statement (.readV2 h addr) := v2_row h _
theorem writeV2 (h : HdrV2) (addr : Word) (data : List Word) : Statement (.writeV2 h addr data) := v2_row h _
theorem niReadV2 (h : HdrV2) (addr : Word) : Statement (.niReadV2 h addr) := v2_row h _
theorem niWriteV2 (h : HdrV2) (addr : Word) (data : List Word) : Statement (.niWriteV2 h addr data) := v2_row h _
theorem rmwBitsV2 (h : HdrV2) (addr andTerm orTerm : Word) : Statement (.rmwBitsV2 h addr andTerm orTerm) := v2_row h _
theorem rmwSumV2 (h : HdrV2) (addr addend : Word) : Statement (.rmwSumV2 h addr addend) := v2_row h _
theorem unknownV2 (h : HdrV2) (ver typeRaw : BitVec 4) : Statement (.unknownV2 h ver typeRaw) := by simp [Statement, row]
theorem readV1 (h : HdrV1) (addr : Word) : Statement (.readV1 h addr) := v1_row h _
theorem writeV1 (h : HdrV1) (addr : Word) (data : List Word) : Statement (.writeV1 h addr data) := v1_row h _
theorem rmwBitsV1 (h : HdrV1) (addr andTerm orTerm : Word) : Statement (.rmwBitsV1 h addr andTerm orTerm) := v1_row h _
theorem rmwSumV1 (h : HdrV1) (addr addend : Word) : Statement (.rmwSumV1 h addr addend) := v1_row h _
theorem niReadV1 (h : HdrV1) (addr : Word) : Statement (.niReadV1 h addr) := v1_row h _
theorem niWriteV1 (h : HdrV1) (addr : Word) (data : List Word) : Statement (.niWriteV1 h addr data) := v1_row h _
theorem unknownV1 (h : HdrV1) (ver : BitVec 4) (typeRaw : BitVec 5) : Statement (.unknownV1 h ver typeRaw) := by simp [Statement, row]

end Sys2Proof.Laws.RowMatch
end

