-- ==== Sys2Proof/Laws/Steps.lean ====
section
/-! SUPPORT. What any transaction, any packet header and any step can do, each said once, for the proofs to cite instead of
unfolding `exec` and `step`. -/

namespace Sys2Proof.Machine

/-- Everything the transactions have in common: the frame, the words consumed, the two header rings, a reply that only
grows, and a register file that stays canonical. -/
theorem exec_transaction {i : Instr} {s t : State} (hi : i.table ≠ .packet) (h : exec i s = .next t) :
    TxnFrame s t ∧ t.pc = s.pc + (encode i).length ∧ t.recvRing = ringPush s.recvRing s.pkt.hdr ∧
      t.sentRing = ringPush s.sentRing t.expected ∧ (∃ ws, t.reply = s.reply ++ ws) ∧
      (s.reg.wf = true → t.reg.wf = true) := by
  cases i <;> simp only [Instr.table, ne_eq, not_true_eq_false] at hi <;>
    simp only [exec, execReadV2, execWriteV2, execNiReadV2, execNiWriteV2, execRmwBitsV2, execRmwSumV2, execUnknownV2,
      execReadV1, execWriteV1, execNiReadV1, execNiWriteV1, execRmwBitsV1, execRmwSumV1, execUnknownV1,
      Host.Outcome.next.injEq, State.doRead_eq, State.doNiRead_eq, State.doWrite_eq, State.doNiWrite_eq,
      State.doRmwBits_eq, State.doRmwSum_eq, State.doUnknown_eq] at h <;>
    subst h <;>
    refine ⟨⟨rfl, rfl, rfl, rfl, rfl, rfl, rfl, rfl, rfl, rfl, rfl, rfl⟩, ?_, rfl, rfl,
      ⟨_, by simp only [List.append_assoc]; rfl⟩, ?_⟩
  all_goals first
    | (simp [encode, bodyWords]; done)
    | (simp [encode, bodyWords]; omega)
    | exact fun h => h
    | exact fun h => State.writeBlock_wf _ _ _ _ h
    | exact fun h => State.writeSame_wf _ _ _ h
    | exact fun h => Memory.wf_write _ _ h

/-- Everything the packet kinds have in common: the frame, the one word consumed, and the packet latches. -/
theorem exec_packet {i : Instr} {s t : State} (hi : i.table = .packet) (h : exec i s = .next t) :
    PacketFrame s t ∧ t.pc = s.pc + 1 ∧ t.pkt = latchedPacket (headerWord i) := by
  cases i <;> simp only [Instr.table, reduceCtorEq] at hi <;>
    simp only [exec, execPktCtrl, execPktStatus, execPktResend, execPktUnknown, Host.Outcome.next.injEq] at h <;>
    subst h
  case pktResend =>
    simp only [State.pushTraffic, State.resendStored, State.takeHeader, State.advance, State.latchPacket]
    split <;>
      exact ⟨⟨rfl, rfl, rfl, rfl, rfl, rfl, rfl, rfl, rfl, rfl, rfl, rfl, rfl, rfl, rfl⟩, rfl, rfl⟩
  all_goals
    simp only [PacketFrame, State.pushTraffic, State.recordCtrl, State.emit, State.takeHeader, State.advance,
      State.latchPacket, and_self]

theorem State.fetch_ne_wait (s : State) (t : Table) : s.fetch t ≠ .wait := by
  unfold State.fetch
  split <;> simp

theorem State.fetch_ne_finish (s : State) (t : Table) : s.fetch t ≠ .finish := by
  unfold State.fetch
  split <;> simp

/-- When the block waits. -/
theorem nextUp_wait {s : State} (h : s.nextUp = .wait) : s.phase = .idle ∧ s.start = false := by
  unfold State.nextUp at h
  split at h
  · rename_i hp
    split at h
    · split at h
      · cases h
      · split at h
        · cases h
        · exact absurd h (State.fetch_ne_wait _ _)
    · rename_i hs
      exact ⟨hp, by simpa using hs⟩
  · split at h
    · exact absurd h (State.fetch_ne_wait _ _)
    · cases h

/-- When the block ends its invocation. -/
theorem nextUp_finish {s : State} (h : s.nextUp = .finish) : s.phase = .busy ∧ ¬ (s.pkt.kind = .control ∧ s.pc < s.n) := by
  unfold State.nextUp at h
  split at h
  · split at h
    · split at h
      · cases h
      · split at h
        · cases h
        · exact absurd h (State.fetch_ne_finish _ _)
    · cases h
  · rename_i hp
    split at h
    · exact absurd h (State.fetch_ne_finish _ _)
    · rename_i hs
      exact ⟨hp, by simpa [State.scanning] using hs⟩

/-- A step that answers a next state: the four things it can be. -/
theorem step_next_cases {s t : State} (h : step s = .next t) :
    (s.phase = .idle ∧ s.start = false ∧ t = s) ∨
    (s.phase = .busy ∧ ¬ (s.pkt.kind = .control ∧ s.pc < s.n) ∧ t = s.finish) ∨
    (s.phase = .busy ∧ s.pkt.kind = .control ∧ s.pc < s.n ∧
      ∃ i rest, decode s.cfg.major.table s.window = .ok (i, rest) ∧ exec i s = .next t) ∨
    (s.phase = .idle ∧ s.start = true ∧ 1 ≤ s.requestedWords ∧ s.requestedWords ≤ s.cfg.rxBufWords ∧
      ∃ i rest, decode .packet s.openInvocation.window = .ok (i, rest) ∧ exec i s.openInvocation = .next t) := by
  rcases step_cases h with ⟨h1, h2⟩ | ⟨h1, h2⟩ | ⟨i, u, h1, h2⟩
  · exact .inl ⟨(nextUp_wait h1).1, (nextUp_wait h1).2, h2⟩
  · exact .inr (.inl ⟨(nextUp_finish h1).1, (nextUp_finish h1).2, h2⟩)
  · rcases nextUp_run h1 with ⟨a, b, c, d, rfl, r, e⟩ | ⟨a, b, c, rfl, r, e⟩
    · exact .inr (.inr (.inr ⟨a, b, c, d, i, r, e, h2⟩))
    · exact .inr (.inr (.inl ⟨a, b, c, i, r, e, h2⟩))

/-- The window of an invocation that has just begun starts with word 0 of the buffer. -/
theorem State.openInvocation_window (s : State) (h : 1 ≤ s.requestedWords) :
    ∃ r, s.openInvocation.window = s.rxWord 0 :: r :=
  ⟨_, State.window_cons s.openInvocation h⟩

/-- The sub-table of transactions is not the packet table. -/
theorem Major.table_ne_packet (m : Major) : m.table ≠ .packet := by cases m <;> decide

end Sys2Proof.Machine
end

