-- ==== Sys2Proof/Tests/Slice0.lean ====
section
/-! SUPPORT. The model's own tests. Expected values come from 95_test_vectors.md (the part is named at each group) or are
worked out by hand from the rule cited. The witnesses at the end show, for each statement of Obligations.lean that has
hypotheses, a state and operands that meet them. -/

namespace Sys2Proof.Tests

open Sys2Proof Sys2Proof.Machine

/-! ## Helpers -/

/-- The reference configuration under MAJOR = 1. -/
def cfg1 : Config := { Config.reference with major := .v1 }

/-- A block of 16 registers with a buffer of 4 words. -/
def cfgSmall : Config := { Config.reference with addrMask := 0xF#32, rxBufWords := 4 }

/-- In the scan of `PKT.CTRL seq=1`, with the given transaction words next and the given registers listed. -/
def scanOf (m : Major) (ws : List Word) (reg : Memory := []) : State :=
  { (State.reset.withTransaction m ws) with pkt := latchedPacket (controlHeaderWord m 1#16), reg := reg }

/-- A started block with the given packet in its buffer. -/
def sent (c : Config) (ws : List Word) : State := (State.resetWith c).sendPacket ws

def replyOf : Host.Outcome State Fault Refusal → Option (List Word)
  | .next s => some s.reply
  | _ => none

def faultOf : Host.Outcome State Fault Refusal → Option Fault
  | .fault f => some f
  | _ => none

def refusalOf : Host.Outcome State Fault Refusal → Option Refusal
  | .refused r => some r
  | _ => none

def regOf (a : Word) : Host.Outcome State Fault Refusal → Option Word
  | .next s => some (s.memRead a)
  | _ => none

/-- The reply, the last-seen control header and the newest traffic event. -/
def seen : Host.Outcome State Fault Refusal → Option (List Word × Word × BitVec 8)
  | .next t => some (t.reply, t.lastCtrlHdr, t.traffic[15])
  | _ => none

def isNext : Host.Outcome State Fault Refusal → Bool
  | .next _ => true
  | _ => false

def pf : PktFields := ⟨2#4, 0#4, 1#16, 0xF#4⟩
def h2 : HdrV2 := ⟨1#12, 2#8, 0xF#4⟩
def h1 : HdrV1 := ⟨1#11, 2#9, 0#3⟩

/-! ## WellFormed: each check refuses an ill-formed term -/

theorem test_wf_pktUnknown : wellFormed (.pktUnknown pf 2#4) = false ∧ wellFormed (.pktUnknown pf 3#4) = true := by decide
theorem test_wf_writeV2 : wellFormed (.writeV2 h2 0#32 [1#32]) = false ∧ wellFormed (.writeV2 h2 0#32 [1#32, 2#32]) = true := by decide
theorem test_wf_niWriteV2 : wellFormed (.niWriteV2 h2 0#32 [1#32, 2#32, 3#32]) = false := by decide
theorem test_wf_writeV1 : wellFormed (.writeV1 h1 0#32 []) = false ∧ wellFormed (.writeV1 h1 0#32 [1#32, 2#32]) = true := by decide
theorem test_wf_niWriteV1 : wellFormed (.niWriteV1 h1 0#32 [1#32]) = false := by decide
theorem test_wf_unknownV2 : wellFormed (.unknownV2 h2 2#4 5#4) = false ∧ wellFormed (.unknownV2 h2 2#4 6#4) = true ∧
    wellFormed (.unknownV2 h2 1#4 5#4) = true := by decide
theorem test_wf_unknownV1 : wellFormed (.unknownV1 h1 1#4 9#5) = false ∧ wellFormed (.unknownV1 h1 1#4 7#5) = true ∧
    wellFormed (.unknownV1 h1 2#4 9#5) = true := by decide

/-! ## Decode: words written out from R63 to R71, one for each constructor -/

-- packet words of 95_test_vectors.md 2.4: version 2, reserved 0, sequence, byte order 0xF, type
theorem test_decode_pktCtrl : decode .packet [0x200001F0#32, 7#32] = .ok (.pktCtrl ⟨2#4, 0#4, 1#16, 0xF#4⟩, [7#32]) := by decide
theorem test_decode_pktStatus : decode .packet [0x200000F1#32] = .ok (.pktStatus ⟨2#4, 0#4, 0#16, 0xF#4⟩, []) := by decide
theorem test_decode_pktResend : decode .packet [0x200009F2#32] = .ok (.pktResend ⟨2#4, 0#4, 9#16, 0xF#4⟩, []) := by decide
theorem test_decode_pktUnknown : decode .packet [0x200005F7#32] = .ok (.pktUnknown ⟨2#4, 0#4, 5#16, 0xF#4⟩ 7#4, []) := by decide
-- MAJOR = 2: ver 31:28, tid 27:16, wc 15:8, type 7:4, info 3:0 (R65, R67)
theorem test_decode_readV2 : decode .txnV2 [0x2ABC040F#32, 0x10#32] = .ok (.readV2 ⟨0xABC#12, 4#8, 0xF#4⟩ 0x10#32, []) := by decide
theorem test_decode_writeV2 : decode .txnV2 [0x2001021F#32, 0x10#32, 5#32, 6#32, 7#32] =
    .ok (.writeV2 ⟨1#12, 2#8, 0xF#4⟩ 0x10#32 [5#32, 6#32], [7#32]) := by decide
theorem test_decode_niReadV2 : decode .txnV2 [0x2003032F#32, 0x30#32] = .ok (.niReadV2 ⟨3#12, 3#8, 0xF#4⟩ 0x30#32, []) := by decide
theorem test_decode_niWriteV2 : decode .txnV2 [0x2004013F#32, 0x30#32, 7#32] =
    .ok (.niWriteV2 ⟨4#12, 1#8, 0xF#4⟩ 0x30#32 [7#32], []) := by decide
theorem test_decode_rmwBitsV2 : decode .txnV2 [0x2005014F#32, 0x40#32, 0xFF0#32, 0xF#32] =
    .ok (.rmwBitsV2 ⟨5#12, 1#8, 0xF#4⟩ 0x40#32 0xFF0#32 0xF#32, []) := by decide
theorem test_decode_rmwSumV2 : decode .txnV2 [0x2001FF5F#32, 0x20#32, 5#32] =
    .ok (.rmwSumV2 ⟨1#12, 255#8, 0xF#4⟩ 0x20#32 5#32, []) := by decide
theorem test_decode_unknownV2 : decode .txnV2 [0x2123007F#32, 9#32] = .ok (.unknownV2 ⟨0x123#12, 0#8, 0xF#4⟩ 2#4 7#4, [9#32]) := by decide
-- MAJOR = 1: ver 31:28, tid 27:17, wc 16:8, type 7:3, direction and info 2:0 (R66, R68)
theorem test_decode_readV1 : decode .txnV1 [0x10060218#32, 0x20#32] = .ok (.readV1 ⟨3#11, 2#9, 0#3⟩ 0x20#32, []) := by decide
theorem test_decode_writeV1 : decode .txnV1 [0x10020220#32, 0x20#32, 10#32, 99#32] =
    .ok (.writeV1 ⟨1#11, 2#9, 0#3⟩ 0x20#32 [10#32, 99#32], []) := by decide
theorem test_decode_rmwBitsV1 : decode .txnV1 [0x100A0128#32, 0x40#32, 0xFF0#32, 0xF#32] =
    .ok (.rmwBitsV1 ⟨5#11, 1#9, 0#3⟩ 0x40#32 0xFF0#32 0xF#32, []) := by decide
theorem test_decode_rmwSumV1 : decode .txnV1 [0x10020130#32, 0x20#32, 5#32] = .ok (.rmwSumV1 ⟨1#11, 1#9, 0#3⟩ 0x20#32 5#32, []) := by decide
theorem test_decode_niReadV1 : decode .txnV1 [0x100A0240#32, 0x21#32] = .ok (.niReadV1 ⟨5#11, 2#9, 0#3⟩ 0x21#32, []) := by decide
theorem test_decode_niWriteV1 : decode .txnV1 [0x10080348#32, 0x21#32, 1#32, 2#32, 3#32] =
    .ok (.niWriteV1 ⟨4#11, 3#9, 0#3⟩ 0x21#32 [1#32, 2#32, 3#32], []) := by decide
theorem test_decode_unknownV1 : decode .txnV1 [0x10FE00F8#32] = .ok (.unknownV1 ⟨0x7F#11, 0#9, 0#3⟩ 1#4 0x1F#5, []) := by decide

/-! ## Header codec (95_test_vectors.md 2.1) -/

theorem test_codec_expectedV2 :
    expectedHeader .v2 1#32 4#32 1#32 0#32 = 0x20010410#32 ∧ expectedHeader .v2 7#32 0#32 0x123#32 1#32 = 0x21230071#32 ∧
      expectedHeader .v2 0#32 0x1FF#32 0x1FFF#32 0#32 = 0x2FFFFF00#32 := by decide
theorem test_codec_expectedV1 :
    expectedHeader .v1 6#32 1#32 1#32 0#32 = 0x10020134#32 ∧ expectedHeader .v1 4#32 0#32 2#32 0#32 = 0x10040024#32 ∧
      expectedHeader .v1 0x1F#32 0#32 0x7F#32 1#32 = 0x10FE00FD#32 := by decide
theorem test_codec_foreignVersion :
    (decodeHeader .v1 0x2001041F#32).ttype = .unknown ∧ (decodeHeader .v1 0x2001041F#32).wc = 0x104#9 ∧
      (decodeHeader .v2 0x10020130#32).ttype = .unknown ∧ (decodeHeader .v2 0x10020130#32).tid = 2#12 := by decide

/-! ## The host's question: one row of each sub-table, from reset -/

theorem test_table_packet : decodeTableWord 8 0 = some (.pktCtrl ⟨0#4, 0#4, 0#16, 0#4⟩) ∧ decodeTableWord 8 1 = some (.pktStatus ⟨0#4, 0#4, 0#16, 0#4⟩) ∧
    isNext (step (State.reset.withFetchWord 8 2)) = true := by decide
theorem test_table_txnV2 : decodeTableWord 32 0x20000050 = some (.rmwSumV2 ⟨0#12, 0#8, 0#4⟩ 0#32 0#32) ∧
    isNext (step (State.reset.withFetchWord 32 0x20000010)) = true := by decide +kernel
theorem test_table_txnV1 : decodeTableWord 32 0x10000028 = some (.rmwBitsV1 ⟨0#11, 0#9, 0#3⟩ 0#32 0#32 0#32) ∧
    isNext (step (State.reset.withFetchWord 32 0x10000048)) = true := by decide +kernel

/-! ## One step, or one meaning, of each instruction (95_test_vectors.md 2.3; reply words after the echoed header) -/

theorem test_readV2_reply : replyOf (step (scanOf .v2 [0x2002040F#32, 0x10#32] [(0x10, 1#32), (0x11, 2#32), (0x12, 3#32), (0x13, 4#32)])) =
    some [0x20020400#32, 1#32, 2#32, 3#32, 4#32] := by decide
-- R44: the block continues at index 0 past the top of a 16-word file
theorem test_readV2_wraps : replyOf (exec (.readV2 ⟨7#12, 2#8, 0xF#4⟩ 0xF#32)
    { scanOf .v2 [] [(0, 0xB#32), (15, 0xA#32)] with cfg := cfgSmall }) = some [0x20070200#32, 0xA#32, 0xB#32] := by decide
theorem test_niReadV2_reply : replyOf (step (scanOf .v2 [0x2003032F#32, 0x30#32] [(0x30, 0xAB#32)])) =
    some [0x20030320#32, 0xAB#32, 0xAB#32, 0xAB#32] := by decide
theorem test_writeV2_reply : replyOf (step (scanOf .v2 [0x2001041F#32, 0x10#32, 1#32, 2#32, 3#32, 4#32])) = some [0x20010410#32] := by decide
theorem test_writeV2_regs : regOf 0x13#32 (exec (.writeV2 ⟨1#12, 4#8, 0xF#4⟩ 0x10#32 [1#32, 2#32, 3#32, 4#32]) (scanOf .v2 [])) =
    some 4#32 := by
  simp [exec, execWriteV2, regOf, State.doWrite_eq, State.memRead, State.writeBlock, State.memWrite, Memory.read_write, State.ea,
    blockAddr, scanOf, State.withTransaction, State.reset, State.resetWith, Config.reference]
theorem test_niWriteV2_reply : replyOf (step (scanOf .v2 [0x2004033F#32, 0x30#32, 7#32, 8#32, 9#32])) = some [0x20040330#32] := by decide
theorem test_niWriteV2_regs : regOf 0x30#32 (exec (.niWriteV2 ⟨4#12, 3#8, 0xF#4⟩ 0x30#32 [7#32, 8#32, 9#32]) (scanOf .v2 [])) =
    some 9#32 := by
  simp [exec, execNiWriteV2, regOf, State.doNiWrite_eq, State.memRead, State.writeSame, State.memWrite, Memory.read_write, State.ea]
theorem test_rmwBitsV2_reply : replyOf (step (scanOf .v2 [0x2005014F#32, 0x40#32, 0xFF0#32, 0xF#32] [(0x40, 0xFF00#32)])) =
    some [0x20050140#32, 0xFF00#32] := by decide
theorem test_rmwBitsV2_regs : regOf 0x40#32 (exec (.rmwBitsV2 ⟨5#12, 1#8, 0xF#4⟩ 0x40#32 0xFF0#32 0xF#32)
    (scanOf .v2 [] [(0x40, 0xFF00#32)])) = some 0xF0F#32 := by
  simp [exec, execRmwBitsV2, regOf, State.doRmwBits_eq, State.memRead, State.memWrite, Memory.read_write, State.ea, scanOf,
    State.withTransaction, State.reset, State.resetWith, Config.reference, Memory.read, rmwBitsNew]
theorem test_rmwSumV2_reply : replyOf (step (scanOf .v2 [0x2001FF5F#32, 0x20#32, 5#32] [(0x20, 10#32)])) =
    some [0x20010150#32, 10#32] := by decide
-- 2.2: 0xFFFFFFFF + 1 leaves 0
theorem test_rmwSumV2_regs : regOf 0x04#32 (exec (.rmwSumV2 ⟨1#12, 1#8, 0xF#4⟩ 0x04#32 1#32) (scanOf .v2 [] [(4, 0xFFFFFFFF#32)])) =
    some 0#32 := by
  simp [exec, execRmwSumV2, regOf, State.doRmwSum_eq, State.memRead, State.memWrite, Memory.read_write, State.ea, scanOf,
    State.withTransaction, State.reset, State.resetWith, Config.reference, Memory.read, rmwSumNew]
theorem test_unknownV2_reply : replyOf (step (scanOf .v2 [0x2123007F#32])) = some [0x21230071#32] := by decide
theorem test_unknownV2_foreign : replyOf (step (scanOf .v2 [0x10020130#32])) = some [0x20020031#32] := by decide

-- MAJOR = 1: 2.3 and program P7
theorem test_readV1_reply : replyOf (step (scanOf .v1 [0x10060218#32, 0x20#32] [(0x20, 15#32), (0x21, 99#32)])) =
    some [0x1006021C#32, 15#32, 99#32] := by decide
theorem test_niReadV1_reply : replyOf (step (scanOf .v1 [0x100A0240#32, 0x21#32] [(0x21, 3#32)])) =
    some [0x100A0244#32, 3#32, 3#32] := by decide
theorem test_writeV1_reply : replyOf (step (scanOf .v1 [0x10020420#32, 0x10#32, 1#32, 2#32, 3#32, 4#32])) = some [0x10020024#32] := by decide
theorem test_writeV1_regs : regOf 0x21#32 (exec (.writeV1 ⟨1#11, 2#9, 0#3⟩ 0x20#32 [10#32, 99#32]) (scanOf .v1 [])) = some 99#32 := by
  simp [exec, execWriteV1, regOf, State.doWrite_eq, State.memRead, State.writeBlock, State.memWrite, Memory.read_write, State.ea,
    blockAddr, scanOf, State.withTransaction, State.reset, State.resetWith, Config.reference]
theorem test_niWriteV1_reply : replyOf (step (scanOf .v1 [0x10080348#32, 0x21#32, 1#32, 2#32, 3#32])) = some [0x1008004C#32] := by decide
theorem test_niWriteV1_regs : regOf 0x21#32 (exec (.niWriteV1 ⟨4#11, 3#9, 0#3⟩ 0x21#32 [1#32, 2#32, 3#32]) (scanOf .v1 [])) =
    some 3#32 := by
  simp [exec, execNiWriteV1, regOf, State.doNiWrite_eq, State.memRead, State.writeSame, State.memWrite, Memory.read_write, State.ea]
theorem test_rmwBitsV1_reply : replyOf (step (scanOf .v1 [0x100A0128#32, 0x40#32, 0xFF0#32, 0xF#32] [(0x40, 0xFF00#32)])) =
    some [0x100A012C#32, 0xF0F#32] := by decide
theorem test_rmwSumV1_reply : replyOf (step (scanOf .v1 [0x10020130#32, 0x20#32, 5#32] [(0x20, 10#32)])) =
    some [0x10020134#32, 15#32] := by decide
theorem test_unknownV1_reply : replyOf (step (scanOf .v1 [0x10FE00F8#32])) = some [0x10FE00FD#32] := by decide
theorem test_unknownV1_foreign : replyOf (step (scanOf .v1 [0x2001041F#32])) = some [0x1000001D#32] := by decide

/-! ## Packets (2.4, 2.6), histories (2.5) and the fault and the refusals -/

theorem test_pktCtrl_step : seen (step (sent Config.reference [0xABCDEF50#32])) = some ([0xABCDEF50#32], 0xABCDEF50#32, 2#8) := by decide
theorem test_pktStatus_step : seen (step (sent Config.reference [0x200000F1#32])) =
    some ([0x200000F1#32, 0x00061A80#32, 5#32, 0x200001F0#32, 0#32, 0#32, 0#32, 0#32, 0#32, 0#32, 0#32, 0#32, 0#32, 0#32, 0#32, 0#32],
      0x200000F0#32, 3#8) := by decide
-- 2.6: sequence 0xFFFF + 1 wraps to 0 and leaves bits 31:24 alone; the oldest of four events is the most significant byte
theorem test_pktStatus_words : nextControlHeader 0x20FFFFF0#32 = 0x200000F0#32 ∧ packEvents 2#8 3#8 4#8 5#8 = 0x02030405#32 := by decide
-- a hit replaces the whole buffer by the newest pair of the key (2.5, P5)
theorem test_pktResend_hit : seen (step { sent Config.reference [0x200001F2#32] with
      history := [⟨1#16, [1#32]⟩, ⟨2#16, [2#32]⟩, ⟨1#16, [3#32]⟩] }) = some ([3#32], 0x200000F0#32, 4#8) := by decide
theorem test_pktResend_miss : seen (step (sent Config.reference [0x200009F2#32])) = some ([], 0x200000F0#32, 4#8) := by decide
theorem test_pktUnknown_step : seen (step (sent Config.reference [0x200005F7#32, 0x2001011F#32, 8#32, 0x11#32])) =
    some ([], 0x200000F0#32, 5#8) := by decide

theorem test_history_store : historyPush [⟨1#16, []⟩, ⟨2#16, []⟩, ⟨3#16, []⟩, ⟨4#16, []⟩, ⟨5#16, []⟩] 6#16 [9#32] =
    [⟨2#16, []⟩, ⟨3#16, []⟩, ⟨4#16, []⟩, ⟨5#16, []⟩, ⟨6#16, [9#32]⟩] := by decide
theorem test_history_lookup : historyFind [⟨1#16, [1#32]⟩, ⟨2#16, []⟩, ⟨1#16, [3#32]⟩] 1#16 = some [3#32] ∧
    historyFind [⟨1#16, [1#32]⟩, ⟨2#16, []⟩, ⟨1#16, [3#32]⟩] 7#16 = none := by decide
theorem test_ring_push : (ringPush (#v[1#32, 2#32, 3#32, 4#32] : Vector Word 4) 5#32).toList = [2#32, 3#32, 4#32, 5#32] := by decide

-- 2.3, P6: a WRITE one data word short with N = 5, a READ without its address with N = 2, an UNKNOWN as last word
theorem test_malformed_write : faultOf (step (scanOf .v2 [0x2001031F#32, 0x10#32, 1#32, 2#32])) = some (.malformedBody 5) := by decide
theorem test_malformed_read : faultOf (step (scanOf .v2 [0x2001000F#32])) = some (.malformedBody 2) := by decide
theorem test_unknown_last_word : replyOf (step (scanOf .v2 [0x2001007F#32])) = some [0x20010071#32] := by decide
theorem test_empty_refused : refusalOf (step ((State.reset.loadRx [0x200001F0#32]).raiseStart 3#32)) = some .emptyBuffer := by decide
theorem test_oversize_refused : refusalOf (step ((State.resetWith cfgSmall).raiseStart 20#32)) = some .oversizeBuffer ∧
    isNext (step ((State.resetWith cfgSmall).sendPacket [0x200001F0#32, 0#32, 0#32, 0#32])) = true := by decide

/-! ## Witnesses: a state and operands that meet the hypotheses of each statement -/

/-- A block with a control packet of one READ sent to it, 2 registers, MAJOR = 2. -/
def w2 : State := sent { Config.reference with addrMask := 1#32 } [0x200001F0#32, 0x2002010F#32, 0#32]

-- DecodeInvertsEncode: the widest writes, and the catch-all rows at the edges of their ranges
theorem witness_DecodeInvertsEncode : WellFormed (.writeV2 ⟨0xFFF#12, 255#8, 0xF#4⟩ 0#32 (List.replicate 255 1#32)) ∧
    WellFormed (.niWriteV1 ⟨0x7FF#11, 511#9, 7#3⟩ 0#32 (List.replicate 511 1#32)) ∧ WellFormed (.niWriteV2 ⟨0#12, 0#8, 0#4⟩ 0#32 []) ∧
    WellFormed (.pktUnknown pf 15#4) ∧ WellFormed (.unknownV2 h2 2#4 15#4) ∧ WellFormed (.unknownV1 h1 0#4 3#5) := by decide +kernel
theorem witness_EncodeInvertsDecode : decode .txnV2 [0x2002000F#32, 5#32, 6#32] = .ok (.readV2 ⟨2#12, 0#8, 0xF#4⟩ 5#32, [6#32]) ∧
    decode .txnV1 [0x00000018#32] = .ok (.unknownV1 ⟨0#11, 0#9, 0#3⟩ 0#4 3#5, []) := by decide
theorem witness_ForeignVersionIsUnknown : (0x30000000#32 : Word).extractLsb' 28 4 ≠ 2#4 ∧ (0x00000020#32 : Word).extractLsb' 28 4 ≠ 1#4 ∧
    (0x20000020#32 : Word).extractLsb' 28 4 ≠ 1#4 := by decide
-- EffectiveAddressMasks, BlockAddressesWrap: the narrowest and the widest mask
theorem witness_Legal : ({ Config.reference with addrMask := 1#32 } : Config).Legal ∧
    ({ Config.reference with addrMask := 0xFFFFFFFF#32, rxBufWords := 1 } : Config).Legal ∧ Config.reference.Legal :=
  ⟨⟨⟨0, rfl⟩, by decide⟩, ⟨⟨31, rfl⟩, by decide⟩, ⟨⟨19, rfl⟩, by decide⟩⟩
theorem witness_EqualContentsAreEqualData : Memory.wf [(0, ~~~ Config.regInit 0), (7, ~~~ Config.regInit 7)] = true := by
  have h : ∀ x : Word, ~~~ x ≠ x := by
    intro x hx
    have h0 : (~~~ x)[0] = x[0] := by rw [hx]
    simp at h0
  simp [Memory.wf, Memory.wfFrom, h]
-- BlockWriteKeepsTheLastWord, WriteStoresTheBlock: a block of 3 in a file of 2, whose word 0 is overwritten by word 2
theorem witness_BlockWriteKeepsTheLastWord : (∀ k, 1 < k → k < 3 → w2.ea (blockAddr 1#32 k) ≠ w2.ea (blockAddr 1#32 1)) ∧
    w2.ea (blockAddr 1#32 2) = w2.ea (blockAddr 1#32 0) := by
  refine ⟨fun k h1 h2 => ?_, by decide⟩
  obtain rfl : k = 2 := by omega
  decide
-- WriteThenReadRoundTrips: no word, and a whole file of 2 words
theorem witness_WriteThenReadRoundTrips : w2.cfg.Legal ∧ w2.cfg.major = .v2 ∧ ([] : List Word).length ≤ w2.cfg.addrMask.toNat + 1 ∧
    [1#32, 2#32].length ≤ w2.cfg.addrMask.toNat + 1 ∧ (2#8).toNat = [1#32, 2#32].length ∧ (State.resetWith cfg1).cfg.Legal ∧
    (State.resetWith cfg1).cfg.major = .v1 ∧ (2#9).toNat = [1#32, 2#32].length :=
  ⟨⟨⟨0, rfl⟩, by decide⟩, rfl, by decide, by decide, rfl, ⟨⟨19, rfl⟩, by decide⟩, rfl, rfl⟩
theorem witness_LastWriteWins : w2.cfg.major = .v2 ∧ [1#32] ≠ [] ∧ (1#8).toNat = [1#32].length ∧ (State.resetWith cfg1).cfg.major = .v1 ∧
    (1#9).toNat = [1#32].length := by decide
-- The transactions: ReadAnswersTheBlock to UnknownAnswersAnErrorHeader, under both versions; the longest and the empty block
theorem witness_transactions : w2.cfg.major = .v2 ∧ (State.resetWith cfg1).cfg.major = .v1 ∧ ([] : List Word).length = (0#8).toNat ∧
    (List.replicate 255 1#32).length = (255#8).toNat ∧ (List.replicate 511 1#32).length = (511#9).toNat := by decide +kernel
-- WriteStoresTheBlock, NiWriteStoresTheLastWord, RmwBits and RmwSum: a word outside what is stored
theorem witness_stores : ∀ k, k < 2 → State.reset.ea 0x12#32 ≠ State.reset.ea (blockAddr 0x10#32 k) := by decide
theorem witness_UnknownAnswersAnErrorHeader : WellFormed (.unknownV2 h2 2#4 6#4) ∧ WellFormed (.unknownV2 h2 3#4 0#4) ∧
    WellFormed (.unknownV1 h1 1#4 7#5) ∧ WellFormed (.unknownV1 h1 2#4 3#5) := by decide
-- ResendPacketReplacesTheReply: the newest of two pairs of key 1, and a key that no pair has
theorem witness_ResendPacketReplacesTheReply :
    [⟨1#16, [1#32]⟩, ⟨2#16, [2#32]⟩, ⟨1#16, [3#32]⟩, ⟨4#16, []⟩] = [⟨1#16, [1#32]⟩, ⟨2#16, [2#32]⟩] ++ HistEntry.mk 1#16 [3#32] :: [⟨4#16, []⟩] ∧
      (∀ e ∈ [HistEntry.mk 4#16 []], e.key ≠ 1#16) ∧ (∀ e ∈ [HistEntry.mk 1#16 [], HistEntry.mk 2#16 []], e.key ≠ 9#16) := by decide
theorem witness_UnknownPacketRecordsOnly : WellFormed (.pktUnknown pf 3#4) ∧ WellFormed (.pktUnknown pf 15#4) := by decide
theorem witness_StepRunsTheDecodedTransaction :
    let s := scanOf .v2 [0x2002010F#32, 0x10#32]
    s.phase = .busy ∧ s.pkt.kind = .control ∧ s.pc < s.n ∧
      decode s.cfg.major.table ((List.range (s.n - s.pc)).map fun k => s.rxWord (s.pc + k)) = .ok (.readV2 ⟨2#12, 1#8, 0xF#4⟩ 0x10#32, []) := by
  decide
-- StepRunsTheDecodedPacket, StepsMakeTheInvocation: one word, and a full buffer
theorem witness_StepRunsTheDecodedPacket :
    let s := sent cfgSmall [0x200001F0#32]
    let t := sent cfgSmall [0x200001F1#32, 0#32, 0#32, 0#32]
    s.phase = .idle ∧ s.start = true ∧ 1 ≤ s.byteCount.toNat / 4 ∧ s.byteCount.toNat / 4 ≤ s.cfg.rxBufWords ∧
      decode .packet [s.rxWord 0] = .ok (.pktCtrl pf, []) ∧ t.byteCount.toNat / 4 = t.cfg.rxBufWords ∧
      decode .packet [t.rxWord 0] = .ok (.pktStatus pf, []) := by decide
-- StepEndsTheInvocation: the scan is over, and a packet that is not a control packet
theorem witness_StepEndsTheInvocation :
    (scanOf .v2 []).phase = .busy ∧ ¬ ((scanOf .v2 []).pkt.kind = .control ∧ (scanOf .v2 []).pc < (scanOf .v2 []).n) ∧
      ¬ ((latchedPacket 0x200001F2#32).kind = .control ∧ 1 < 3) := by decide
theorem witness_IdleBlockWaits : State.reset.phase = .idle ∧ State.reset.start = false := by decide
-- EmptyAndOversizeBuffersAreRefused: 3 bytes are no whole word; 20 bytes are one word too many for a buffer of 4
theorem witness_EmptyAndOversizeBuffersAreRefused :
    let s := (State.resetWith cfgSmall).raiseStart 3#32
    let t := (State.resetWith cfgSmall).raiseStart 20#32
    s.phase = .idle ∧ s.start = true ∧ s.byteCount.toNat / 4 = 0 ∧ t.start = true ∧ t.cfg.rxBufWords < t.byteCount.toNat / 4 := by decide
-- MissingBodyWordFaults: the transaction ends exactly at N, and one word beyond it
theorem witness_MissingBodyWordFaults :
    let s := scanOf .v2 [0x2002010F#32, 0x10#32]
    let t := scanOf .v2 [0x2002010F#32]
    s.phase = .busy ∧ s.pkt.kind = .control ∧ s.pc < s.n ∧ s.pc + txnLen .read 1 = s.n ∧
      (decodeHeader s.cfg.major (s.rxWord s.pc)).ttype = .read ∧
      t.phase = .busy ∧ t.pkt.kind = .control ∧ t.pc < t.n ∧ t.n + 1 = t.pc + txnLen .read 1 := by decide
-- OnlyF1AndF2Stop: see test_malformed_read, test_empty_refused and test_oversize_refused.
-- HistoryKeepsTheNewestFive, ResendReachesFiveStores: a full history, then four and five stores under other keys
theorem witness_ResendReachesFiveStores : (List.replicate 5 (HistEntry.mk 1#16 [])).length ≤ 5 ∧
    (∀ e ∈ List.replicate 4 (HistEntry.mk 2#16 []), e.key ≠ 1#16) ∧ (List.replicate 4 (HistEntry.mk 2#16 [])).length ≤ 4 ∧
    (∀ e ∈ List.replicate 5 (HistEntry.mk 2#16 []), e.key ≠ 1#16) ∧ ¬ (List.replicate 5 (HistEntry.mk 2#16 [])).length ≤ 4 := by decide
-- The rules of the whole machine (NoStepWritesConfigurationOrBuffer to OnlyTheEndConsumesAndStores): a step that waits, one
-- that takes a packet header of each kind, one that runs a transaction and one that ends an invocation
theorem witness_steps : isNext (step State.reset) = true ∧ isNext (step (sent cfgSmall [0x200001F0#32])) = true ∧
    isNext (step (sent cfgSmall [0x200001F1#32])) = true ∧ isNext (step (sent cfgSmall [0x200001F2#32])) = true ∧
    isNext (step (sent cfgSmall [0x200001F3#32])) = true ∧ isNext (step (scanOf .v2 [0x2002010F#32, 0x10#32])) = true ∧
    isNext (step (scanOf .v2 [0x2002011F#32, 0x10#32, 1#32])) = true ∧ isNext (step (scanOf .v2 [])) = true := by decide
-- UnscannedWordsAreNeverRead: another word at index N
theorem witness_UnscannedWordsAreNeverRead :
    (∀ k, k < (sent cfgSmall [0x200001F0#32]).byteCount.toNat / 4 →
      ({ sent cfgSmall [0x200001F0#32] with rx := [0x200001F0#32, 9#32] } : State).rxWord k = (sent cfgSmall [0x200001F0#32]).rxWord k) ∧
    ∀ k, k < (scanOf .v2 []).n → ({ scanOf .v2 [] with rx := (scanOf .v2 []).rx ++ [9#32] } : State).rxWord k = (scanOf .v2 []).rxWord k := by
  decide
theorem witness_InvariantHoldsAtReset : cfgSmall.Legal := ⟨⟨3, rfl⟩, by decide⟩
-- StepKeepsTheInvariant, and TransportKeepsTheInvariant for a block that is not ready: a started block, whose next step takes a control header
theorem witness_StepKeepsTheInvariant : Inv w2 ∧ isNext (step w2) = true := by
  refine ⟨⟨⟨⟨0, rfl⟩, by decide⟩, ⟨by decide, fun c h => by cases h⟩, ⟨by decide, by decide, fun h => absurd rfl h⟩,
    ⟨by decide, fun h => absurd h (by decide)⟩, fun h => absurd h (by decide), fun h => absurd h (by decide), by unfold CtrlHeaderOk; decide⟩, by decide⟩
-- TransportKeepsTheInvariant: a ready block (here one that still holds a stored reply, with `done` up) and a legal configuration
theorem witness_TransportKeepsTheInvariant :
    let s := ({ State.resetWith cfgSmall with pkt := latchedPacket 0x200005F7#32 } : State).finish
    Inv s ∧ s.ready = true ∧ cfgSmall.Legal := by
  refine ⟨⟨⟨⟨3, rfl⟩, by decide⟩, ⟨by decide, fun c h => by cases h⟩, ⟨by decide, by decide, fun _ => rfl⟩,
    ⟨by decide, fun h => absurd h (by decide)⟩, fun h => absurd h (by decide), fun _ => ⟨rfl, rfl, by decide⟩,
    by unfold CtrlHeaderOk; decide⟩, by decide, ⟨⟨3, rfl⟩, by decide⟩⟩
theorem witness_ControlPacketRunsInOrder :
    let is := [Instr.readV2 ⟨2#12, 1#8, 0xF#4⟩ 0#32]
    (∀ i ∈ is, WellFormed i ∧ i.table = w2.cfg.major.table) ∧
      (List.range (w2.byteCount.toNat / 4)).map w2.rxWord = encode (.pktCtrl pf) ++ is.flatMap encode ∧
      w2.byteCount.toNat / 4 ≤ w2.cfg.rxBufWords := by decide
-- InvocationShapesTheReply: an invocation of each kind that ends; a resend that hits and one that misses
theorem witness_InvocationShapesTheReply : isNext w2.invoke = true ∧ isNext (sent cfgSmall [0x200001F1#32]).invoke = true ∧
    replyOf ({ sent cfgSmall [0x200001F2#32] with history := [⟨1#16, [7#32]⟩] } : State).invoke = some [7#32] ∧
    replyOf (sent cfgSmall [0x200001F2#32]).invoke = some [] ∧ replyOf (sent cfgSmall [0x200001FF#32]).invoke = some [] := by decide
theorem witness_ResendRepeatsTheLastReply : (match w2.invoke with
    | .next t => decide ((0x200001F2#32 : Word).extractLsb' 8 16 = t.pkt.seq)
    | _ => false) = true ∧ (0x200001F2#32 : Word).extractLsb' 0 4 = 2#4 := by decide
-- TransportPlacesThePacket: a packet that fills the buffer, an empty one, a block that is ready and two that are not
theorem witness_TransportPlacesThePacket : [1#32, 2#32, 3#32, 4#32].length ≤ cfgSmall.rxBufWords ∧
    4 * [1#32, 2#32, 3#32, 4#32].length < 2 ^ 32 ∧ ([] : List Word).length ≤ cfgSmall.rxBufWords ∧
    (State.resetWith cfgSmall).ready = true ∧ w2.ready = false ∧ (scanOf .v2 []).ready = false := by decide

end Sys2Proof.Tests
end

namespace Sys2Proof

/-! ## The decoder, inverted -/

/-- The transaction types that may change the register file (R19). -/
def TxnType.Writes (ty : TxnType) : Prop := ty = .write ∨ ty = .niWrite ∨ ty = .rmwBits ∨ ty = .rmwSum

/-- The type code that a major version gives each transaction type (R67, R68); UNKNOWN has none. -/
def Major.codeOf (m : Major) : TxnType → Option (BitVec 5)
  | .read => some m.codes.read
  | .write => some m.codes.write
  | .niRead => some m.codes.niRead
  | .niWrite => some m.codes.niWrite
  | .rmwBits => some m.codes.rmwBits
  | .rmwSum => some m.codes.rmwSum
  | .unknown => none

/-- A header of a known type has version MAJOR and the type's code (R69, R91). -/
theorem fields_of_codeOf_classify {m : Major} {ver : BitVec 4} {raw k : BitVec 5}
    (h : m.codeOf (classify m ver raw) = some k) : ver = m.code ∧ raw = k := by
  unfold classify at h
  split_ifs at h <;> simp_all [Major.codeOf]

/-- A MAJOR = 2 header word of a known type is its fields under version 2 and the type's code. -/
theorem cutV2_word_of_ttype {w : Word} {ty : TxnType} {k : BitVec 5} (h : (decodeHeader .v2 w).ttype = ty)
    (hk : Major.v2.codeOf ty = some k) : (cutV2 w).word 2#4 k = w := by
  subst h
  obtain ⟨hv, hr⟩ := fields_of_codeOf_classify hk
  have hw := cutV2_word w
  rwa [hv, hr] at hw

/-- A MAJOR = 1 header word of a known type is its fields under version 1 and the type's code. -/
theorem cutV1_word_of_ttype {w : Word} {ty : TxnType} {k : BitVec 5} (h : (decodeHeader .v1 w).ttype = ty)
    (hk : Major.v1.codeOf ty = some k) : (cutV1 w).word 1#4 k = w := by
  subst h
  obtain ⟨hv, hr⟩ := fields_of_codeOf_classify hk
  have hw := cutV1_word w
  rwa [hv, hr] at hw

/-- A MAJOR = 2 header word is built from its fields, the type field cut 4 bits wide. -/
theorem cutV2_word_narrow (w : Word) :
    (cutV2 w).word (Major.v2.layout.ver.cut 4 w) ((Major.v2.layout.typeRaw.cut 4 w).setWidth 5) = w := by
  rw [← BitField.cut_wider _ (by decide)]
  exact cutV2_word w

/-- The catch-all row of MAJOR = 2 holds exactly the UNKNOWN type (R67, R69). -/
theorem classify_v2_eq_unknown {ver raw : BitVec 4} :
    classify .v2 ver (raw.setWidth 5) = .unknown ↔ unknownTxnV2 ver raw = true := by
  revert ver raw; decide

/-- The catch-all row of MAJOR = 1 holds exactly the UNKNOWN type (R68, R69). -/
theorem classify_v1_eq_unknown {ver : BitVec 4} {raw : BitVec 5} :
    classify .v1 ver raw = .unknown ↔ unknownTxnV1 ver raw = true := by
  revert ver raw; decide

theorem body1_ok {f : Word → Instr} {ws rest : List Word} {i : Instr} (h : body1 f ws = .ok (i, rest)) :
    ∃ a, i = f a ∧ ws = a :: rest := by
  cases ws with
  | nil => cases h
  | cons a r => cases h; exact ⟨a, rfl, rfl⟩

theorem body2_ok {f : Word → Word → Instr} {ws rest : List Word} {i : Instr} (h : body2 f ws = .ok (i, rest)) :
    ∃ a b, i = f a b ∧ ws = a :: b :: rest := by
  match ws, h with
  | a :: b :: r, h => cases h; exact ⟨a, b, rfl, rfl⟩

theorem body3_ok {f : Word → Word → Word → Instr} {ws rest : List Word} {i : Instr} (h : body3 f ws = .ok (i, rest)) :
    ∃ a b c, i = f a b c ∧ ws = a :: b :: c :: rest := by
  match ws, h with
  | a :: b :: c :: r, h => cases h; exact ⟨a, b, c, rfl, rfl⟩

theorem bodyData_ok {n : Nat} {f : Word → List Word → Instr} {ws rest : List Word} {i : Instr}
    (h : bodyData n f ws = .ok (i, rest)) : ∃ a d, i = f a d ∧ d.length = n ∧ ws = a :: (d ++ rest) := by
  cases ws with
  | nil => cases h
  | cons a r =>
    simp only [bodyData] at h
    split at h
    · cases h
      exact ⟨a, r.take n, rfl, by simpa, by simp⟩
    · cases h

/-- What the MAJOR = 2 decoder answers is well formed, belongs to its sub-table and is laid out as the words read. -/
theorem decodeTxnV2_ok {ws rest : List Word} {i : Instr} (h : decodeTxnV2 ws = .ok (i, rest)) :
    WellFormed i ∧ i.table = .txnV2 ∧ ws = encode i ++ rest := by
  cases ws with
  | nil => cases h
  | cons w body =>
    simp only [decodeTxnV2] at h
    split at h
    case h_1 ht | h_3 ht =>
      obtain ⟨a, rfl, rfl⟩ := body1_ok h
      exact ⟨rfl, rfl, by simp [encode, bodyWords, headerWord, cutV2_word_of_ttype ht rfl]⟩
    case h_2 ht | h_4 ht =>
      obtain ⟨a, d, rfl, hd, rfl⟩ := bodyData_ok h
      exact ⟨beq_iff_eq.mpr hd, rfl, by simp [encode, bodyWords, headerWord, cutV2_word_of_ttype ht rfl]⟩
    case h_5 ht =>
      obtain ⟨a, x, y, rfl, rfl⟩ := body3_ok h
      exact ⟨rfl, rfl, by simp [encode, bodyWords, headerWord, cutV2_word_of_ttype ht rfl]⟩
    case h_6 ht =>
      obtain ⟨a, x, rfl, rfl⟩ := body2_ok h
      exact ⟨rfl, rfl, by simp [encode, bodyWords, headerWord, cutV2_word_of_ttype ht rfl]⟩
    case h_7 ht =>
      cases h
      refine ⟨classify_v2_eq_unknown.mp ?_, rfl, by simp [encode, bodyWords, headerWord, cutV2_word_narrow]⟩
      rwa [← BitField.cut_wider _ (by decide)]

/-- What the MAJOR = 1 decoder answers is well formed, belongs to its sub-table and is laid out as the words read. -/
theorem decodeTxnV1_ok {ws rest : List Word} {i : Instr} (h : decodeTxnV1 ws = .ok (i, rest)) :
    WellFormed i ∧ i.table = .txnV1 ∧ ws = encode i ++ rest := by
  cases ws with
  | nil => cases h
  | cons w body =>
    simp only [decodeTxnV1] at h
    split at h
    case h_1 ht | h_3 ht =>
      obtain ⟨a, rfl, rfl⟩ := body1_ok h
      exact ⟨rfl, rfl, by simp [encode, bodyWords, headerWord, cutV1_word_of_ttype ht rfl]⟩
    case h_2 ht | h_4 ht =>
      obtain ⟨a, d, rfl, hd, rfl⟩ := bodyData_ok h
      exact ⟨beq_iff_eq.mpr hd, rfl, by simp [encode, bodyWords, headerWord, cutV1_word_of_ttype ht rfl]⟩
    case h_5 ht =>
      obtain ⟨a, x, y, rfl, rfl⟩ := body3_ok h
      exact ⟨rfl, rfl, by simp [encode, bodyWords, headerWord, cutV1_word_of_ttype ht rfl]⟩
    case h_6 ht =>
      obtain ⟨a, x, rfl, rfl⟩ := body2_ok h
      exact ⟨rfl, rfl, by simp [encode, bodyWords, headerWord, cutV1_word_of_ttype ht rfl]⟩
    case h_7 ht =>
      cases h
      exact ⟨classify_v1_eq_unknown.mp ht, rfl, by simp [encode, bodyWords, headerWord, cutV1_word]⟩

theorem packetKind_eq_control {t : BitVec 4} : packetKind t = .control ↔ t = 0#4 := by
  revert t; decide

theorem packetKind_eq_status {t : BitVec 4} : packetKind t = .status ↔ t = 1#4 := by
  revert t; decide

theorem packetKind_eq_resend {t : BitVec 4} : packetKind t = .resend ↔ t = 2#4 := by
  revert t; decide

/-- The catch-all packet row holds exactly the Unknown kind (R64). -/
theorem packetKind_eq_unknown {t : BitVec 4} : packetKind t = .unknown ↔ unknownPacketType t = true := by
  revert t; decide

/-- What the packet decoder answers is well formed, belongs to its sub-table and is laid out as the word read (R64). -/
theorem decodePacket_ok {ws rest : List Word} {i : Instr} (h : decodePacket ws = .ok (i, rest)) :
    WellFormed i ∧ i.table = .packet ∧ ws = headerWord i :: rest := by
  cases ws with
  | nil => cases h
  | cons w r =>
    have hw := cutPacket_word w
    simp only [decodePacket] at h
    split at h <;> rename_i hk <;> cases h
    · rw [packetKind_eq_control.mp hk] at hw
      exact ⟨rfl, rfl, by rw [headerWord, hw]⟩
    · rw [packetKind_eq_status.mp hk] at hw
      exact ⟨rfl, rfl, by rw [headerWord, hw]⟩
    · rw [packetKind_eq_resend.mp hk] at hw
      exact ⟨rfl, rfl, by rw [headerWord, hw]⟩
    · exact ⟨packetKind_eq_unknown.mp hk, rfl, by rw [headerWord, hw]⟩

/-- A packet header has no body (R64). -/
theorem bodyWords_of_packet {i : Instr} (hi : i.table = .packet) : bodyWords i = [] := by
  cases i <;> simp_all [Instr.table, bodyWords]

/-- What the decoder answers is well formed, belongs to the sub-table it read by, and is laid out as the words consumed
(R61, R77). -/
theorem decode_ok {t : Table} {ws rest : List Word} {i : Instr} (h : decode t ws = .ok (i, rest)) :
    WellFormed i ∧ i.table = t ∧ ws = encode i ++ rest := by
  cases t with
  | packet =>
    obtain ⟨hwf, ht, hw⟩ := decodePacket_ok h
    exact ⟨hwf, ht, by rw [encode, bodyWords_of_packet ht]; exact hw⟩
  | txnV2 => exact decodeTxnV2_ok h
  | txnV1 => exact decodeTxnV1_ok h

end Sys2Proof

namespace Sys2Proof.Machine

/-! ## The register file: equal contents, and the indices it lists -/

theorem Memory.wfFrom_cons {lo a : Nat} {v : Word} {m : Memory} :
    Memory.wfFrom lo ((a, v) :: m) = true ↔ lo ≤ a ∧ v ≠ Config.regInit a ∧ Memory.wfFrom (a + 1) m = true := by
  simp [Memory.wfFrom, and_assoc]

/-- A register file in canonical form from an index on lists nothing below it. -/
theorem Memory.read_of_lt_wfFrom {a : Nat} : ∀ {lo : Nat} {m : Memory}, Memory.wfFrom lo m = true → a < lo →
    m.read a = Config.regInit a
  | _, [], _, _ => rfl
  | _, (b, v) :: m, h, ha => by
    obtain ⟨hb, -, hm⟩ := Memory.wfFrom_cons.mp h
    rw [Memory.read, if_neg (by omega), Memory.read_of_lt_wfFrom hm (by omega)]

/-- A canonical list reads at its first index as something else than reset left there. -/
theorem Memory.read_head_ne {lo a : Nat} {v : Word} {m : Memory} (h : Memory.wfFrom lo ((a, v) :: m) = true) :
    Memory.read ((a, v) :: m) a ≠ Config.regInit a := by
  obtain ⟨-, hv, -⟩ := Memory.wfFrom_cons.mp h
  simpa [Memory.read] using hv

/-- Of two canonical lists that read the same, neither begins later than the other. -/
theorem Memory.head_le_of_read_eq {lo a b : Nat} {v w : Word} {m n : Memory}
    (hm : Memory.wfFrom lo ((a, v) :: m) = true) (hn : Memory.wfFrom lo ((b, w) :: n) = true)
    (h : ∀ c, Memory.read ((a, v) :: m) c = Memory.read ((b, w) :: n) c) : b ≤ a := by
  by_contra hab
  obtain ⟨-, hw, hn'⟩ := Memory.wfFrom_cons.mp hn
  have hn'' : Memory.wfFrom b ((b, w) :: n) = true := Memory.wfFrom_cons.mpr ⟨le_rfl, hw, hn'⟩
  exact Memory.read_head_ne hm (by rw [h a, Memory.read_of_lt_wfFrom hn'' (by omega)])

/-- Canonical lists with the same contents are the same list. -/
theorem Memory.eq_of_read_eq : ∀ {lo : Nat} {m n : Memory}, Memory.wfFrom lo m = true → Memory.wfFrom lo n = true →
    (∀ a, m.read a = n.read a) → m = n
  | _, [], [], _, _, _ => rfl
  | _, [], (_, _) :: _, _, hn, h => absurd (h _).symm (Memory.read_head_ne hn)
  | _, (_, _) :: _, [], hm, _, h => absurd (h _) (Memory.read_head_ne hm)
  | _, (a, v) :: m, (b, w) :: n, hm, hn, h => by
    have hab : a = b := le_antisymm (Memory.head_le_of_read_eq hn hm fun c => (h c).symm)
      (Memory.head_le_of_read_eq hm hn h)
    subst hab
    have hvw : v = w := by simpa [Memory.read] using h a
    subst hvw
    obtain ⟨-, -, hm'⟩ := Memory.wfFrom_cons.mp hm
    obtain ⟨-, -, hn'⟩ := Memory.wfFrom_cons.mp hn
    have ht : ∀ c, Memory.read m c = Memory.read n c := fun c => by
      by_cases hc : c = a
      · rw [Memory.read_of_lt_wfFrom hm' (by omega), Memory.read_of_lt_wfFrom hn' (by omega)]
      · simpa [Memory.read, hc] using h c
    rw [Memory.eq_of_read_eq hm' hn' ht]

/-- A write keeps the register file canonical and within ADDR_MASK. -/
theorem RegFileOk.memWrite {s : State} (h : RegFileOk s) (a v : Word) : RegFileOk (s.memWrite a v) := by
  obtain ⟨hwf, hmask⟩ := h
  refine ⟨Memory.wf_write _ _ hwf, fun c hc => ?_⟩
  rcases Memory.mem_write hc with rfl | hc
  · exact s.ea_le a
  · exact hmask c hc

theorem RegFileOk.writeBlock (base : Word) : ∀ (ds : List Word) {s : State} (i : Nat), RegFileOk s →
    RegFileOk (s.writeBlock base i ds)
  | [], _, _, h => h
  | d :: ds, _, i, h => RegFileOk.writeBlock base ds (i + 1) (h.memWrite _ d)

theorem RegFileOk.writeSame (a : Word) : ∀ (ds : List Word) {s : State}, RegFileOk s → RegFileOk (s.writeSame a ds)
  | [], _, h => h
  | d :: ds, _, h => RegFileOk.writeSame a ds (h.memWrite a d)

/-- The invariant of the register file is about its contents and ADDR_MASK only. -/
theorem RegFileOk.congr {s t : State} (h : RegFileOk s) (hr : t.reg = s.reg) (hc : t.cfg = s.cfg) : RegFileOk t := by
  rw [RegFileOk, hr, hc]
  exact h

/-- Equal register files read the same. -/
theorem SameRegisters.of_reg_eq {s t : State} (hr : t.reg = s.reg) (hc : t.cfg = s.cfg) : SameRegisters s t :=
  fun a => by simp only [State.memRead, State.ea, hr, hc]

/-! ## What a transaction does, by handler -/

/-- The fourteen transaction rows are the seven handlers, run on the latches of their header (R101 to R107). -/
theorem exec_transaction_cases {i : Instr} {s t : State} (hi : i.table ≠ .packet) (h : exec i s = .next t) :
    ∃ x : TxnHeader,
      (x.ttype = .read ∧ ∃ a, t = s.doRead x a) ∨ (x.ttype = .niRead ∧ ∃ a, t = s.doNiRead x a) ∨
      (x.ttype = .write ∧ ∃ a d, t = s.doWrite x a d) ∨ (x.ttype = .niWrite ∧ ∃ a d, t = s.doNiWrite x a d) ∨
      (x.ttype = .rmwBits ∧ ∃ a y z, t = s.doRmwBits x a y z) ∨ (x.ttype = .rmwSum ∧ ∃ a y, t = s.doRmwSum x a y) ∨
      (x.ttype = .unknown ∧ t = s.doUnknown x) := by
  cases i with
  | pktCtrl | pktStatus | pktResend | pktUnknown => exact absurd rfl hi
  | readV2 | readV1 => cases h; exact ⟨_, .inl ⟨rfl, _, rfl⟩⟩
  | niReadV2 | niReadV1 => cases h; exact ⟨_, .inr (.inl ⟨rfl, _, rfl⟩)⟩
  | writeV2 | writeV1 => cases h; exact ⟨_, .inr (.inr (.inl ⟨rfl, _, _, rfl⟩))⟩
  | niWriteV2 | niWriteV1 => cases h; exact ⟨_, .inr (.inr (.inr (.inl ⟨rfl, _, _, rfl⟩)))⟩
  | rmwBitsV2 | rmwBitsV1 => cases h; exact ⟨_, .inr (.inr (.inr (.inr (.inl ⟨rfl, _, _, _, rfl⟩))))⟩
  | rmwSumV2 | rmwSumV1 => cases h; exact ⟨_, .inr (.inr (.inr (.inr (.inr (.inl ⟨rfl, _, _, rfl⟩)))))⟩
  | unknownV2 | unknownV1 => cases h; exact ⟨_, .inr (.inr (.inr (.inr (.inr (.inr ⟨rfl, rfl⟩)))))⟩

/-- A transaction leaves the register file alone, or its latched type is a writer and it makes one block access. -/
theorem exec_transaction_reg {i : Instr} {s t : State} (hi : i.table ≠ .packet) (h : exec i s = .next t) :
    t.reg = s.reg ∨
      t.txn.ttype.Writes ∧ ∃ a ds, t.reg = (s.writeBlock a 0 ds).reg ∨ t.reg = (s.writeSame a ds).reg := by
  obtain ⟨x, hx⟩ := exec_transaction_cases hi h
  rcases hx with ⟨-, a, rfl⟩ | ⟨-, a, rfl⟩ | ⟨ht, a, d, rfl⟩ | ⟨ht, a, d, rfl⟩ | ⟨ht, a, y, z, rfl⟩ | ⟨ht, a, y, rfl⟩ |
    ⟨-, rfl⟩
  · exact .inl (by rw [State.doRead_eq])
  · exact .inl (by rw [State.doNiRead_eq])
  · rw [State.doWrite_eq]
    exact .inr ⟨.inl ht, a, d, .inl rfl⟩
  · rw [State.doNiWrite_eq]
    exact .inr ⟨.inr (.inl ht), a, d, .inr rfl⟩
  · rw [State.doRmwBits_eq]
    exact .inr ⟨.inr (.inr (.inl ht)), a, [_], .inr rfl⟩
  · rw [State.doRmwSum_eq]
    exact .inr ⟨.inr (.inr (.inr ht)), a, [_], .inr rfl⟩
  · exact .inl (by rw [State.doUnknown_eq])

/-- A transaction keeps the register file canonical and within ADDR_MASK (R19). -/
theorem RegFileOk.exec_transaction {i : Instr} {s t : State} (hs : RegFileOk s) (hi : i.table ≠ .packet)
    (h : exec i s = .next t) : RegFileOk t := by
  obtain ⟨⟨hcfg, -⟩, -⟩ := Machine.exec_transaction hi h
  rcases exec_transaction_reg hi h with hr | ⟨-, a, ds, hr | hr⟩
  · exact hs.congr hr hcfg
  · exact (hs.writeBlock a ds 0).congr hr (by rw [hcfg, State.writeBlock_eq])
  · exact (hs.writeSame a ds).congr hr (by rw [hcfg, State.writeSame_eq])

@[simp] theorem State.doRead_txn (s : State) (x : TxnHeader) (a : Word) : (s.doRead x a).txn = x := by
  rw [State.doRead_eq]

@[simp] theorem State.doNiRead_txn (s : State) (x : TxnHeader) (a : Word) : (s.doNiRead x a).txn = x := by
  rw [State.doNiRead_eq]

@[simp] theorem State.doWrite_txn (s : State) (x : TxnHeader) (a : Word) (d : List Word) : (s.doWrite x a d).txn = x := by
  rw [State.doWrite_eq]

@[simp] theorem State.doNiWrite_txn (s : State) (x : TxnHeader) (a : Word) (d : List Word) : (s.doNiWrite x a d).txn = x := by
  rw [State.doNiWrite_eq]

@[simp] theorem State.doRmwBits_txn (s : State) (x : TxnHeader) (a y z : Word) : (s.doRmwBits x a y z).txn = x := by
  rw [State.doRmwBits_eq]

@[simp] theorem State.doRmwSum_txn (s : State) (x : TxnHeader) (a y : Word) : (s.doRmwSum x a y).txn = x := by
  rw [State.doRmwSum_eq]

@[simp] theorem State.doUnknown_txn (s : State) (x : TxnHeader) : (s.doUnknown x).txn = x := by
  rw [State.doUnknown_eq]

/-- The latches of a MAJOR = 2 row are what DecodeHeader makes of its header word (R90, R91). -/
theorem latchV2_eq_decodeHeader (h : HdrV2) {ver : BitVec 4} {raw : BitVec 5} {ty : TxnType}
    (hr : (raw.setWidth 4).setWidth 5 = raw) (ht : classify .v2 ver raw = ty) :
    latchV2 h ver raw ty = decodeHeader .v2 (h.word ver raw) := by
  have hraw : Major.v2.layout.typeRaw.cut 5 (h.word ver raw) = raw := by
    rw [BitField.cut_wider (n := 4) _ (by decide), typeRaw_of_wordV2, hr]
  have hwc : Major.v2.layout.wc.cut 9 (h.word ver raw) = h.wc.setWidth 9 := by
    rw [BitField.cut_wider (n := 8) _ (by decide)]
    exact congrArg (fun x : HdrV2 => x.wc.setWidth 9) (cutV2_of_word h ver raw)
  have htid : Major.v2.layout.tid.cut 12 (h.word ver raw) = h.tid := congrArg HdrV2.tid (cutV2_of_word h ver raw)
  have hinfo : Major.v2.layout.info.cut 4 (h.word ver raw) = h.info := congrArg HdrV2.info (cutV2_of_word h ver raw)
  simp [latchV2, decodeHeader, hraw, hwc, htid, hinfo, ver_of_wordV2, ht]

/-- The latches of a MAJOR = 1 row are what DecodeHeader makes of its header word (R90, R91). -/
theorem latchV1_eq_decodeHeader (h : HdrV1) {ver : BitVec 4} {raw : BitVec 5} {ty : TxnType}
    (ht : classify .v1 ver raw = ty) : latchV1 h ver raw ty = decodeHeader .v1 (h.word ver raw) := by
  have htid : Major.v1.layout.tid.cut 12 (h.word ver raw) = h.tid.setWidth 12 := by
    rw [BitField.cut_wider (n := 11) _ (by decide)]
    exact congrArg (fun x : HdrV1 => x.tid.setWidth 12) (cutV1_of_word h ver raw)
  have hinfo : Major.v1.layout.info.cut 4 (h.word ver raw) = h.info.setWidth 4 := by
    rw [BitField.cut_wider (n := 3) _ (by decide)]
    exact congrArg (fun x : HdrV1 => x.info.setWidth 4) (cutV1_of_word h ver raw)
  have hwc : Major.v1.layout.wc.cut 9 (h.word ver raw) = h.wc := congrArg HdrV1.wc (cutV1_of_word h ver raw)
  simp [latchV1, decodeHeader, htid, hinfo, hwc, ver_of_wordV1, typeRaw_of_wordV1, ht]

/-- A transaction of MAJOR's sub-table leaves in the latches what DecodeHeader makes of its header word (R90, R91). -/
theorem exec_transaction_txn {m : Major} {i : Instr} {s t : State} (hwf : WellFormed i) (hi : i.table = m.table)
    (h : exec i s = .next t) : t.txn = decodeHeader m (headerWord i) := by
  cases m with
  | v1 =>
    cases i <;> simp only [Instr.table, Major.table, reduceCtorEq] at hi
    case unknownV1 x ver raw =>
      cases h
      rw [State.doUnknown_txn]
      exact latchV1_eq_decodeHeader x (classify_v1_eq_unknown.mpr hwf)
    all_goals
      cases h
      simp only [State.doRead_txn, State.doNiRead_txn, State.doWrite_txn, State.doNiWrite_txn, State.doRmwBits_txn,
        State.doRmwSum_txn]
      exact latchV1_eq_decodeHeader _ rfl
  | v2 =>
    cases i <;> simp only [Instr.table, Major.table, reduceCtorEq] at hi
    case unknownV2 x ver raw =>
      cases h
      rw [State.doUnknown_txn]
      exact latchV2_eq_decodeHeader x (by simp) (classify_v2_eq_unknown.mpr hwf)
    all_goals
      cases h
      simp only [State.doRead_txn, State.doNiRead_txn, State.doWrite_txn, State.doNiWrite_txn, State.doRmwBits_txn,
        State.doRmwSum_txn]
      exact latchV2_eq_decodeHeader _ rfl rfl

/-! ## What a packet header does, by kind -/

/-- A resend packet changes the reply buffer and nothing else (R126). -/
theorem State.resendStored_eq (s : State) :
    s.resendStored = { s with reply := (s.historyLookup s.pkt.seq).getD s.reply } := by
  unfold State.resendStored
  cases s.historyLookup s.pkt.seq <;> rfl

/-- A packet header of the Control kind is emitted and recorded, with code 2; one of any other kind leaves
`last_ctrl_hdr` alone and is recorded with its own code (R124 to R127). -/
theorem exec_packet_cases {i : Instr} {s t : State} (hwf : WellFormed i) (hi : i.table = .packet)
    (h : exec i s = .next t) :
    (packetType (headerWord i) = 0#4 ∧ t.lastCtrlHdr = headerWord i ∧ t.reply = s.reply ++ [headerWord i] ∧
      t.traffic = ringPush s.traffic 2#8) ∨
    (packetType (headerWord i) ≠ 0#4 ∧ t.lastCtrlHdr = s.lastCtrlHdr ∧
      ∃ c, (c = 3#8 ∨ c = 4#8 ∨ c = 5#8) ∧ t.traffic = ringPush s.traffic c) := by
  cases i <;> simp only [Instr.table, reduceCtorEq] at hi
  case pktCtrl p => cases h; exact .inl ⟨packetType_word p _, rfl, rfl, rfl⟩
  case pktStatus p =>
    cases h
    exact .inr ⟨by rw [headerWord, packetType_word]; decide, rfl, _, .inl rfl, rfl⟩
  case pktResend p =>
    cases h
    rw [State.resendStored_eq]
    exact .inr ⟨by rw [headerWord, packetType_word]; decide, rfl, _, .inr (.inl rfl), rfl⟩
  case pktUnknown p ty =>
    cases h
    refine .inr ⟨?_, rfl, _, .inr (.inr rfl), rfl⟩
    rw [headerWord, packetType_word]
    rintro rfl
    exact absurd (show unknownPacketType 0#4 = true from hwf) (by decide)

/-! ## What a step does, with the words it has decoded -/

/-- A step that answers a next state: it waits, ends the invocation, runs the transaction laid out at `pc`, or opens an
invocation and takes the packet header in word 0. -/
theorem step_next_decoded {s t : State} (h : step s = .next t) :
    (s.phase = .idle ∧ s.start = false ∧ t = s) ∨
    (s.phase = .busy ∧ ¬ (s.pkt.kind = .control ∧ s.pc < s.n) ∧ t = s.finish) ∨
    (s.phase = .busy ∧ s.pkt.kind = .control ∧ s.pc < s.n ∧
      ∃ i, i.table ≠ .packet ∧ s.pc + (encode i).length ≤ s.n ∧ exec i s = .next t ∧
        t.txn = decodeHeader s.cfg.major (s.rxWord s.pc)) ∨
    (s.phase = .idle ∧ s.start = true ∧ 1 ≤ s.requestedWords ∧ s.requestedWords ≤ s.cfg.rxBufWords ∧
      ∃ i, WellFormed i ∧ i.table = .packet ∧ headerWord i = s.rxWord 0 ∧ exec i s.openInvocation = .next t) := by
  rcases step_next_cases h with hw | hf | ⟨hp, hk, hn, i, rest, hd, he⟩ | ⟨hp, hs, h1, h2, i, rest, hd, he⟩
  · exact .inl hw
  · exact .inr (.inl hf)
  · obtain ⟨hwf, ht, hwin⟩ := decode_ok hd
    have hlen : s.n - s.pc = (encode i).length + rest.length := by
      simpa using congrArg List.length hwin
    have hw : headerWord i = s.rxWord s.pc := (List.cons.inj (hwin.symm.trans (s.window_cons hn))).1
    exact .inr (.inr (.inl ⟨hp, hk, hn, i, ht ▸ Major.table_ne_packet _, by omega, he,
      hw ▸ exec_transaction_txn hwf ht he⟩))
  · obtain ⟨hwf, ht, hwin⟩ := decodePacket_ok hd
    obtain ⟨r, hr⟩ := s.openInvocation_window h1
    have hw : headerWord i = s.rxWord 0 := (List.cons.inj (hwin.symm.trans hr)).1
    exact .inr (.inr (.inr ⟨hp, hs, h1, h2, i, hwf, ht, hw, he⟩))

/-- The packet type is bits 3:0 of the header (R63). -/
theorem packetType_eq_extract (w : Word) : packetType w = w.extractLsb' 0 4 := by
  simp [packetType, BitField.cut, BitField.width, pktLayout]

/-! ## The invariant -/

/-- The end of an invocation keeps the invariant, and makes true what it says of `done`. -/
theorem Inv.finish {s : State} (h : Inv s) (hb : s.phase = .busy) : Inv s.finish := by
  obtain ⟨hleg, hreg, ⟨hlen, htraf, -⟩, ⟨hpc, hbusy⟩, -, -, hctrl⟩ := h
  obtain ⟨-, -, hstart, -, -⟩ := hbusy hb
  exact ⟨hleg, hreg, ⟨historyPush_length _ _ _ hlen, htraf, fun _ => Delay.afterFirst_eq _⟩,
    ⟨hpc, nofun⟩, nofun, fun _ => ⟨rfl, hstart, historyPush_getLast _ _ _⟩, hctrl⟩

/-- A transaction of the scan keeps the invariant: it moves `pc` within N, and its reply is appended. -/
theorem Inv.exec_transaction {i : Instr} {s t : State} (hs : Inv s) (hb : s.phase = .busy) (hi : i.table ≠ .packet)
    (hn : s.pc + (encode i).length ≤ s.n) (h : exec i s = .next t) : Inv t := by
  obtain ⟨hleg, hreg, hhist, ⟨-, hbusy⟩, hecho, -, hctrl⟩ := hs
  obtain ⟨hpc, hcap, hstart, hdone, hpkt⟩ := hbusy hb
  obtain ⟨⟨fcfg, frx, -, fstart, -, fdone, fn, fpkt, fhist, ftraf, fctrl, fdelay⟩, hpc', -, -, ⟨ws, hws⟩, -⟩ :=
    Machine.exec_transaction hi h
  have hrx : t.rxWord 0 = s.rxWord 0 := by rw [State.rxWord, frx, State.rxWord]
  have hbusy' : 1 ≤ t.pc ∧ t.n ≤ t.cfg.rxBufWords ∧ t.start = false ∧ t.done = false ∧ t.pkt = latchedPacket (t.rxWord 0) :=
    ⟨by omega, by rw [fn, fcfg]; exact hcap, fstart.trans hstart, fdone.trans hdone, by rw [fpkt, hrx]; exact hpkt⟩
  refine ⟨fcfg ▸ hleg, hreg.exec_transaction hi h, ?_, ⟨by omega, fun _ => hbusy'⟩, fun _ hk => ?_, fun hd => ?_, ?_⟩
  · rw [HistoriesOk, fhist, ftraf, fdelay]
    exact hhist
  · have hhead := hecho hb (fpkt ▸ hk)
    rw [hws, List.head?_append, hhead, fpkt]
    rfl
  · rw [fdone, hdone] at hd
    cases hd
  · rw [CtrlHeaderOk, fctrl]
    exact hctrl

/-- The step that opens an invocation establishes what the invariant says of a busy block. -/
theorem Inv.exec_packet {i : Instr} {s t : State} (hs : Inv s) (h1 : 1 ≤ s.requestedWords)
    (h2 : s.requestedWords ≤ s.cfg.rxBufWords) (hwf : WellFormed i) (hi : i.table = .packet)
    (hw : headerWord i = s.rxWord 0) (h : exec i s.openInvocation = .next t) : Inv t := by
  obtain ⟨hleg, hreg, ⟨hlen, htraf, hdelay⟩, -, -, -, hctrl⟩ := hs
  obtain ⟨⟨fcfg, frx, -, fstart, -, fdone, fn, -, -, -, freg, fhist, -, -, fdelay⟩, hpc, hpkt⟩ :=
    Machine.exec_packet hi h
  have hrx : t.rxWord 0 = s.rxWord 0 := by rw [State.rxWord, frx]; rfl
  have hcases := exec_packet_cases hwf hi h
  simp only [State.openInvocation_cfg, State.openInvocation_start, State.openInvocation_done, State.openInvocation_n,
    State.openInvocation_reg, State.openInvocation_history, State.openInvocation_delay, State.openInvocation_pc,
    State.openInvocation_traffic, State.openInvocation_reply, State.openInvocation_lastCtrlHdr]
    at fcfg fstart fdone fn freg fhist fdelay hpc hcases
  have hbusy : 1 ≤ t.pc ∧ t.n ≤ t.cfg.rxBufWords ∧ t.start = false ∧ t.done = false ∧ t.pkt = latchedPacket (t.rxWord 0) :=
    ⟨by omega, by rw [fn, fcfg]; exact h2, fstart, fdone, by rw [hpkt, hrx, hw]⟩
  refine ⟨fcfg ▸ hleg, hreg.congr freg fcfg,
    ⟨by rw [fhist]; exact hlen, fun e he => ?_, by rw [fhist, fdelay]; exact hdelay⟩,
    ⟨by omega, fun _ => hbusy⟩, fun _ hk => ?_, fun hd => ?_, ?_⟩
  · rcases hcases with ⟨-, -, -, ht⟩ | ⟨-, -, c, hc, ht⟩
    · rcases mem_ringPush (ht ▸ he) with rfl | he
      · exact .inr (.inl rfl)
      · exact htraf e he
    · rcases mem_ringPush (ht ▸ he) with rfl | he
      · exact .inr (.inr hc)
      · exact htraf e he
  · rw [hpkt] at hk ⊢
    rcases hcases with ⟨-, -, hr, -⟩ | ⟨ht, -⟩
    · rw [hr]
      rfl
    · exact absurd (packetKind_eq_control.mp hk) ht
  · rw [fdone] at hd
    cases hd
  · rcases hcases with ⟨ht, hc, -⟩ | ⟨-, hc, -⟩
    · rw [CtrlHeaderOk, hc]
      exact ht
    · rw [CtrlHeaderOk, hc]
      exact hctrl

/-- Settles O47: each of the four things a step can be keeps the invariant. -/
theorem stepKeepsTheInvariant : Obligations.StepKeepsTheInvariant := by
  intro s t hs h
  rcases step_next_decoded h with ⟨-, -, rfl⟩ | ⟨hb, -, rfl⟩ | ⟨hb, -, -, i, hi, hn, he, -⟩ |
    ⟨-, -, h1, h2, i, hwf, hi, hw, he⟩
  · exact hs
  · exact hs.finish hb
  · exact hs.exec_transaction hb hi hn he
  · exact hs.exec_packet h1 h2 hwf hi hw he

/-- Settles O11: canonical lists with the same contents are equal, by induction on both. -/
theorem equalContentsAreEqualData : Obligations.EqualContentsAreEqualData :=
  fun _ _ h₁ h₂ h => Memory.eq_of_read_eq h₁ h₂ h

/-- Settles O37: neither the end, nor a transaction, nor a packet header writes them. -/
theorem noStepWritesConfigurationOrBuffer : Obligations.NoStepWritesConfigurationOrBuffer := by
  intro s t h
  rcases step_next_decoded h with ⟨-, -, rfl⟩ | ⟨-, -, rfl⟩ | ⟨-, -, -, i, hi, -, he, -⟩ | ⟨-, -, -, -, i, -, hi, -, he⟩
  · exact ⟨rfl, rfl, rfl⟩
  · exact ⟨rfl, rfl, rfl⟩
  · obtain ⟨⟨hcfg, hrx, hbyte, -⟩, -⟩ := exec_transaction hi he
    exact ⟨hcfg, hrx, hbyte⟩
  · obtain ⟨⟨hcfg, hrx, hbyte, -⟩, -⟩ := exec_packet hi he
    exact ⟨hcfg, hrx, hbyte⟩

/-- Settles O38: the only accesses that write are those of a transaction whose decoded type is a writer. -/
theorem registersChangeOnlyByWriters : Obligations.RegistersChangeOnlyByWriters := by
  intro s t h
  rcases step_next_decoded h with ⟨-, -, rfl⟩ | ⟨-, -, rfl⟩ | ⟨hb, hk, hn, i, hi, -, he, hty⟩ |
    ⟨-, -, -, -, i, -, hi, -, he⟩
  · exact .inl fun _ => rfl
  · exact .inl fun _ => rfl
  · obtain ⟨⟨hcfg, -⟩, -⟩ := exec_transaction hi he
    rcases exec_transaction_reg hi he with hr | ⟨hw, -⟩
    · exact .inl (SameRegisters.of_reg_eq hr hcfg)
    · exact .inr ⟨hb, hk, hn, by rw [← hty]; exact hw⟩
  · obtain ⟨⟨hcfg, -, -, -, -, -, -, -, -, -, hr, -⟩, -⟩ := exec_packet hi he
    exact .inl (SameRegisters.of_reg_eq hr hcfg)

/-- Settles O41: only the header of a control packet, whose bits 3:0 are 0, is recorded. -/
theorem lastControlHeaderIsTheLastSeen : Obligations.LastControlHeaderIsTheLastSeen := by
  intro s t h
  rcases step_next_decoded h with ⟨-, hs, rfl⟩ | ⟨hb, -, rfl⟩ | ⟨hb, -, -, i, hi, -, he, -⟩ |
    ⟨hp, hs, -, -, i, hwf, hi, hw, he⟩
  · simp [hs]
  · simp [hb, State.finish_eq]
  · obtain ⟨⟨-, -, -, -, -, -, -, -, -, -, hctrl, -⟩, -⟩ := exec_transaction hi he
    simp [hb, hctrl]
  · have hcases := exec_packet_cases hwf hi he
    rw [hw, packetType_eq_extract] at hcases
    rcases hcases with ⟨hty, hctrl, -⟩ | ⟨hty, hctrl, -⟩
    · rw [if_pos ⟨hp, hs, hty⟩, hctrl]
    · rw [if_neg fun hc => hty hc.2.2, hctrl]
      rfl

/-- Settles O42: a transaction and a packet header leave both alone; the end consumes the delay. -/
theorem onlyTheEndConsumesAndStores : Obligations.OnlyTheEndConsumesAndStores := by
  intro s t h
  rcases step_next_decoded h with ⟨-, -, rfl⟩ | ⟨hb, hk, rfl⟩ | ⟨-, -, -, i, hi, -, he, -⟩ | ⟨-, -, -, -, i, -, hi, -, he⟩
  · exact ⟨id, fun _ => ⟨rfl, rfl⟩⟩
  · exact ⟨fun _ => Delay.afterFirst_eq _, fun hn => absurd ⟨hb, hk⟩ hn⟩
  · obtain ⟨⟨-, -, -, -, -, -, -, -, hhist, -, -, hdelay⟩, -⟩ := exec_transaction hi he
    exact ⟨hdelay.trans, fun _ => ⟨hdelay, hhist⟩⟩
  · obtain ⟨⟨-, -, -, -, -, -, -, -, -, -, -, hhist, -, -, hdelay⟩, -⟩ := exec_packet hi he
    exact ⟨hdelay.trans, fun _ => ⟨hdelay, hhist⟩⟩

/-! ## What a step is, case by case -/

theorem step_of_idle {s : State} (hp : s.phase = .idle) (hs : s.start = false) : step s = .next s := by
  simp [step, State.nextUp, hp, hs]

theorem step_of_empty {s : State} (hp : s.phase = .idle) (hs : s.start = true) (h0 : s.requestedWords = 0) :
    step s = .refused .emptyBuffer := by
  simp [step, State.nextUp, hp, hs, h0]

theorem step_of_oversize {s : State} (hp : s.phase = .idle) (hs : s.start = true) (h0 : s.requestedWords ≠ 0)
    (h1 : s.cfg.rxBufWords < s.requestedWords) : step s = .refused .oversizeBuffer := by
  simp [step, State.nextUp, hp, hs, h0, h1]

theorem step_of_start {s : State} (hp : s.phase = .idle) (hs : s.start = true) (h0 : s.requestedWords ≠ 0)
    (h1 : ¬ s.cfg.rxBufWords < s.requestedWords) : step s = s.openInvocation.executePacket := by
  cases hd : decode .packet s.openInvocation.window <;>
    simp [step, State.nextUp, State.fetch, State.executePacket, hp, hs, h0, h1, hd]

theorem step_of_scanning {s : State} (hp : s.phase = .busy) (hs : s.scanning = true) : step s = s.executeTransaction := by
  cases hd : decode s.cfg.major.table s.window <;>
    simp [step, State.nextUp, State.fetch, State.executeTransaction, hp, hs, hd]

theorem step_of_scanned {s : State} (hp : s.phase = .busy) (hs : s.scanning = false) : step s = .next s.finish := by
  simp [step, State.nextUp, hp, hs]

/-! ## Other words in the inbound buffer -/

/-- The state with other words in `RX`. -/
def State.withRx (s : State) (r : List Word) : State := { s with rx := r }

/-- An instruction takes its words from itself, not from the buffer: it commutes with a change of `RX`. -/
theorem exec_withRx (i : Instr) (s : State) (r : List Word) :
    exec i (s.withRx r) = andThen (exec i s) fun t => .next (t.withRx r) := by
  have hblock : ∀ a d, ((s.withRx r).writeBlock a 0 d).reg = (s.writeBlock a 0 d).reg := fun a d =>
    State.writeBlock_reg_latches a d s _ 0 rfl rfl
  have hsame : ∀ a d, ((s.withRx r).writeSame a d).reg = (s.writeSame a d).reg := fun a d =>
    State.writeSame_reg_latches a d s _ rfl rfl
  cases i with
  | pktResend p =>
    simp only [exec, execPktResend, State.resendStored_eq]
    rfl
  | writeV2 h a d | writeV1 h a d =>
    simp only [exec, execWriteV2, execWriteV1, State.doWrite_eq, hblock, andThen]
    rfl
  | niWriteV2 h a d | niWriteV1 h a d =>
    simp only [exec, execNiWriteV2, execNiWriteV1, State.doNiWrite_eq, hsame, andThen]
    rfl
  | _ => rfl

/-- The window reads no word of `RX` at index N or above. -/
theorem State.window_withRx {s : State} {r : List Word} (h : ∀ k, k < s.n → (s.withRx r).rxWord k = s.rxWord k) :
    (s.withRx r).window = s.window := by
  refine List.map_congr_left fun k hk => h _ ?_
  have := List.mem_range.mp hk
  simp only [State.withRx] at this ⊢
  omega

theorem State.executePacket_withRx {s : State} {r : List Word} (h : (s.withRx r).window = s.window) :
    (s.withRx r).executePacket = andThen s.executePacket fun t => .next (t.withRx r) := by
  unfold State.executePacket
  rw [h]
  split
  · exact exec_withRx _ s r
  · rfl

theorem State.executeTransaction_withRx {s : State} {r : List Word} (h : (s.withRx r).window = s.window) :
    (s.withRx r).executeTransaction = andThen s.executeTransaction fun t => .next (t.withRx r) := by
  have hcfg : (s.withRx r).cfg = s.cfg := rfl
  have hpc : (s.withRx r).pc = s.pc := rfl
  unfold State.executeTransaction
  rw [h, hcfg, hpc]
  split
  · exact exec_withRx _ s r
  · rfl

/-- Settles O44: the only reads of `RX` are those of the window, and each kind of step commutes with the change. -/
theorem unscannedWordsAreNeverRead : Obligations.UnscannedWordsAreNeverRead := by
  intro s r h
  change step (s.withRx r) = andThen (step s) fun t => .next (t.withRx r)
  cases hp : s.phase with
  | idle =>
    simp only [hp, if_true] at h
    have hp' : (s.withRx r).phase = .idle := hp
    cases hs : s.start with
    | false => rw [step_of_idle hp hs, step_of_idle hp' hs]; rfl
    | true =>
      have hs' : (s.withRx r).start = true := hs
      by_cases h0 : s.requestedWords = 0
      · rw [step_of_empty hp hs h0, step_of_empty hp' hs' h0]; rfl
      by_cases h1 : s.cfg.rxBufWords < s.requestedWords
      · rw [step_of_oversize hp hs h0 h1, step_of_oversize hp' hs' h0 h1]; rfl
      rw [step_of_start hp hs h0 h1, step_of_start hp' hs' h0 h1]
      exact State.executePacket_withRx (s := s.openInvocation) (State.window_withRx h)
  | busy =>
    simp only [hp, reduceCtorEq, if_false] at h
    have hp' : (s.withRx r).phase = .busy := hp
    cases hc : s.scanning with
    | true =>
      rw [step_of_scanning hp hc, step_of_scanning hp' hc]
      exact State.executeTransaction_withRx (State.window_withRx h)
    | false => rw [step_of_scanned hp hc, step_of_scanned hp' hc]; rfl

/-! ## Reset -/

/-- The word `last_ctrl_hdr` holds after reset, bit by bit (R30). -/
theorem controlHeaderWord_zero (m : Major) : controlHeaderWord m 0#16 = m.code ++ 0x00000F0#28 := by
  cases m <;> decide

/-- Settles O45: `State.resetWith` names each value R30 gives. -/
theorem resetLeavesTheStatedValues : Obligations.ResetLeavesTheStatedValues := by
  refine ⟨fun c => ⟨rfl, fun _ => rfl, rfl, rfl, ?_, ?_, ?_, controlHeaderWord_zero _, rfl⟩, Config.reference, rfl⟩ <;>
    simp [State.resetWith]

theorem Inv.resetWith {c : Config} (hc : c.Legal) : Inv (State.resetWith c) := by
  refine ⟨hc, ⟨rfl, nofun⟩, ⟨Nat.zero_le _, fun e he => .inl ?_, fun h => absurd rfl h⟩,
    ⟨le_rfl, nofun⟩, nofun, nofun, packetType_word _ _⟩
  simpa [State.resetWith] using he

theorem legal_reference : Config.reference.Legal := ⟨⟨19, rfl⟩, by decide⟩

/-- Settles O46: at reset the histories are empty, the block is idle with `done` down. -/
theorem invariantHoldsAtReset : Obligations.InvariantHoldsAtReset :=
  ⟨fun _ => Inv.resetWith, Inv.resetWith legal_reference⟩

end Sys2Proof.Machine

namespace Sys2Proof

/-! ## The form of a legal mask -/

/-- A legal ADDR_MASK is a power of two less one, so the file size divides the address space (R14, D20). -/
theorem Config.Legal.exists_two_pow {c : Config} (h : c.Legal) :
    ∃ n, n ≤ 32 ∧ c.addrMask.toNat + 1 = 2 ^ n := by
  obtain ⟨⟨k, hk⟩, -⟩ := h
  exact ⟨k.val + 1, k.isLt, hk⟩

theorem Config.Legal.fileSize_dvd {c : Config} (h : c.Legal) : c.addrMask.toNat + 1 ∣ 2 ^ 32 := by
  obtain ⟨n, hn, hm⟩ := h.exists_two_pow
  exact hm ▸ Nat.pow_dvd_pow 2 hn

/-- A divisor of the modulus that divides an integer divides its residue. -/
theorem dvd_toNat_ofInt {m w : Nat} {i : Int} (hm : m ∣ 2 ^ w) (hi : (m : Int) ∣ i) : m ∣ (BitVec.ofInt w i).toNat := by
  rw [← Int.natCast_dvd_natCast, BitVec.toNat_ofInt, Int.toNat_of_nonneg (Int.emod_nonneg _ (by positivity))]
  exact (EuclideanDomain.dvd_mod_iff (by exact_mod_cast hm)).mpr hi

/-! ## The encoder, inverted -/

/-- The type a MAJOR = 2 header word is decoded to is that of its fields (R67, R91). -/
theorem ttype_of_wordV2 (h : HdrV2) {ver : BitVec 4} {raw : BitVec 5} {ty : TxnType}
    (hr : (raw.setWidth 4).setWidth 5 = raw) (ht : classify .v2 ver raw = ty) :
    (decodeHeader .v2 (h.word ver raw)).ttype = ty :=
  (congrArg TxnHeader.ttype (Machine.latchV2_eq_decodeHeader h hr ht)).symm

/-- The type a MAJOR = 1 header word is decoded to is that of its fields (R68, R91). -/
theorem ttype_of_wordV1 (h : HdrV1) {ver : BitVec 4} {raw : BitVec 5} {ty : TxnType}
    (ht : classify .v1 ver raw = ty) : (decodeHeader .v1 (h.word ver raw)).ttype = ty :=
  (congrArg TxnHeader.ttype (Machine.latchV1_eq_decodeHeader h ht)).symm

/-- A MAJOR = 2 header word with the code of a type is decoded to that type (R67). -/
theorem ttype_of_codeV2 (h : HdrV2) {ty : TxnType} {k : BitVec 5} (hk : Major.v2.codeOf ty = some k) :
    (decodeHeader .v2 (h.word 2#4 k)).ttype = ty := by
  cases ty <;> cases hk <;> exact ttype_of_wordV2 h rfl rfl

/-- A MAJOR = 1 header word with the code of a type is decoded to that type (R68). -/
theorem ttype_of_codeV1 (h : HdrV1) {ty : TxnType} {k : BitVec 5} (hk : Major.v1.codeOf ty = some k) :
    (decodeHeader .v1 (h.word 1#4 k)).ttype = ty := by
  cases ty <;> cases hk <;> exact ttype_of_wordV1 h rfl

/-- A body of the declared length is taken whole, and what follows it is left. -/
theorem bodyData_append {n : Nat} (f : Word → List Word → Instr) (a : Word) {d : List Word} (hd : d.length = n)
    (rest : List Word) : bodyData n f (a :: (d ++ rest)) = .ok (f a d, rest) := by
  subst hd
  simp [bodyData]

/-- The MAJOR = 2 decoder reads back the words of an instruction of its sub-table (R65, R67, R69, R71). -/
theorem decodeTxnV2_encode {i : Instr} (hwf : WellFormed i) (hi : i.table = .txnV2) (rest : List Word) :
    decodeTxnV2 (encode i ++ rest) = .ok (i, rest) := by
  simp only [encode, List.cons_append, decodeTxnV2]
  cases i <;> simp only [Instr.table, reduceCtorEq] at hi <;> simp only [headerWord, cutV2_of_word]
  case readV2 h a => rw [ttype_of_codeV2 h (ty := .read) rfl]; rfl
  case writeV2 h a d => rw [ttype_of_codeV2 h (ty := .write) rfl]; exact bodyData_append _ a (beq_iff_eq.mp hwf) rest
  case niReadV2 h a => rw [ttype_of_codeV2 h (ty := .niRead) rfl]; rfl
  case niWriteV2 h a d => rw [ttype_of_codeV2 h (ty := .niWrite) rfl]; exact bodyData_append _ a (beq_iff_eq.mp hwf) rest
  case rmwBitsV2 h a x y => rw [ttype_of_codeV2 h (ty := .rmwBits) rfl]; rfl
  case rmwSumV2 h a x => rw [ttype_of_codeV2 h (ty := .rmwSum) rfl]; rfl
  case unknownV2 h ver raw =>
    rw [ttype_of_wordV2 h (by simp) (classify_v2_eq_unknown.mpr hwf), ver_of_wordV2, typeRaw_of_wordV2]
    simp [bodyWords]

/-- The MAJOR = 1 decoder reads back the words of an instruction of its sub-table (R66, R68, R69, R71). -/
theorem decodeTxnV1_encode {i : Instr} (hwf : WellFormed i) (hi : i.table = .txnV1) (rest : List Word) :
    decodeTxnV1 (encode i ++ rest) = .ok (i, rest) := by
  simp only [encode, List.cons_append, decodeTxnV1]
  cases i <;> simp only [Instr.table, reduceCtorEq] at hi <;> simp only [headerWord, cutV1_of_word]
  case readV1 h a => rw [ttype_of_codeV1 h (ty := .read) rfl]; rfl
  case writeV1 h a d => rw [ttype_of_codeV1 h (ty := .write) rfl]; exact bodyData_append _ a (beq_iff_eq.mp hwf) rest
  case niReadV1 h a => rw [ttype_of_codeV1 h (ty := .niRead) rfl]; rfl
  case niWriteV1 h a d => rw [ttype_of_codeV1 h (ty := .niWrite) rfl]; exact bodyData_append _ a (beq_iff_eq.mp hwf) rest
  case rmwBitsV1 h a x y => rw [ttype_of_codeV1 h (ty := .rmwBits) rfl]; rfl
  case rmwSumV1 h a x => rw [ttype_of_codeV1 h (ty := .rmwSum) rfl]; rfl
  case unknownV1 h ver raw =>
    rw [ttype_of_wordV1 h (classify_v1_eq_unknown.mpr hwf), ver_of_wordV1, typeRaw_of_wordV1]
    simp [bodyWords]

/-- The packet decoder reads back a packet header word (R63, R64). -/
theorem decodePacket_encode {i : Instr} (hwf : WellFormed i) (hi : i.table = .packet) (rest : List Word) :
    decodePacket (encode i ++ rest) = .ok (i, rest) := by
  simp only [encode, bodyWords_of_packet hi, List.cons_append, List.nil_append, decodePacket]
  cases i <;> simp only [Instr.table, reduceCtorEq] at hi <;>
    simp only [headerWord, packetType_word, cutPacket_of_word]
  case pktUnknown p ty => rw [packetKind_eq_unknown.mpr hwf]
  all_goals rfl

/-- The decoder reads back every well-formed instruction, whatever follows it (R61, R77). -/
theorem decode_encode {i : Instr} (hwf : WellFormed i) (rest : List Word) :
    decode i.table (encode i ++ rest) = .ok (i, rest) := by
  cases hi : i.table with
  | packet => exact decodePacket_encode hwf hi rest
  | txnV2 => exact decodeTxnV2_encode hwf hi rest
  | txnV1 => exact decodeTxnV1_encode hwf hi rest

end Sys2Proof

namespace Sys2Proof.Machine

/-! ## Effective addresses under a legal mask -/

/-- Under a legal mask the effective address is the address modulo the file size (R40, D20). -/
theorem State.ea_eq_mod {s : State} (h : s.cfg.Legal) (a : Word) : s.ea a = a.toNat % (s.cfg.addrMask.toNat + 1) := by
  obtain ⟨n, -, hm⟩ := h.exists_two_pow
  rw [hm, ← Nat.and_two_pow_sub_one_eq_mod, State.ea, BitVec.toNat_and]
  congr 1
  omega

theorem State.ea_ofNat_ea (s : State) (a : Word) : s.ea (BitVec.ofNat 32 (s.ea a)) = s.ea a := by
  simp [State.ea, BitVec.and_assoc]

/-- Any whole number of file sizes away, upwards or downwards, the effective address is the same (R40). -/
theorem State.ea_add_fileSizes {s : State} (h : s.cfg.Legal) (a : Word) (k : Int) :
    s.ea (a + BitVec.ofInt 32 (k * (s.cfg.addrMask.toNat + 1))) = s.ea a := by
  have hdvd := h.fileSize_dvd
  obtain ⟨q, hq⟩ := dvd_toNat_ofInt hdvd (Dvd.intro_left k rfl)
  rw [Nat.cast_add_one] at hq
  rw [State.ea_eq_mod h, State.ea_eq_mod h, BitVec.toNat_add, Nat.mod_mod_of_dvd _ hdvd, hq, Nat.add_mul_mod_self_left]

theorem blockAddr_toNat (base : Word) (i : Nat) : (blockAddr base i).toNat = (base.toNat + i) % 2 ^ 32 := by
  simp [blockAddr]

@[simp] theorem blockAddr_zero (base : Word) : blockAddr base 0 = base := by
  simp [blockAddr]

/-- Under a legal mask the words of an incrementing block wrap at the file size (R44). -/
theorem State.ea_blockAddr {s : State} (h : s.cfg.Legal) (base : Word) (i : Nat) :
    s.ea (blockAddr base i) = (s.ea base + i) % (s.cfg.addrMask.toNat + 1) := by
  rw [State.ea_eq_mod h, State.ea_eq_mod h, blockAddr_toNat, Nat.mod_mod_of_dvd _ h.fileSize_dvd,
    Nat.mod_add_mod]

/-- Two words of a block no longer than the register file are at different indices. -/
theorem State.ea_blockAddr_ne {s : State} (h : s.cfg.Legal) (base : Word) {i k : Nat} (hik : i < k)
    (hk : k ≤ i + s.cfg.addrMask.toNat) : s.ea (blockAddr base k) ≠ s.ea (blockAddr base i) := by
  rw [State.ea_blockAddr h, State.ea_blockAddr h]
  intro he
  have hdvd : s.cfg.addrMask.toNat + 1 ∣ (s.ea base + k) - (s.ea base + i) := (Nat.modEq_iff_dvd' (by omega)).mp he.symm
  have := Nat.le_of_dvd (by omega) hdvd
  omega

theorem State.readBlock_getElem? (s : State) (base : Word) {i k : Nat} (h : i < k) :
    (s.readBlock base k)[i]? = some (s.memRead (blockAddr base i)) := by
  simp [State.readBlock, h]

theorem State.readSame_getElem? (s : State) (a : Word) {i k : Nat} (h : i < k) :
    (s.readSame a k)[i]? = some (s.memRead a) := by
  simp [State.readSame, h]

/-- Settles O9: a legal mask keeps the address modulo the file size, which divides the address space. -/
theorem effectiveAddressMasks : Obligations.EffectiveAddressMasks :=
  fun s a => ⟨rfl, s.ea_ofNat_ea a, fun h k => State.ea_add_fileSizes h a k⟩

/-- Settles O10: the address of the i-th word, and what the reads give at place i. -/
theorem blockAddressesWrap : Obligations.BlockAddressesWrap :=
  fun s base i => ⟨blockAddr_toNat base i, fun h => State.ea_blockAddr h base i,
    fun _ => s.readBlock_getElem? base, fun _ => s.readSame_getElem? base⟩

/-! ## Reads after block writes -/

/-- After an incrementing write from its j-th word on, the word at a place of the block that no later place shares its
index with is the one written there. -/
theorem State.writeBlock_memRead_last (base : Word) (ds : List Word) (s : State) (j i : Nat) (h : i < ds.length)
    (hlast : ∀ k, i < k → k < ds.length → s.ea (blockAddr base (j + k)) ≠ s.ea (blockAddr base (j + i))) :
    (s.writeBlock base j ds).memRead (blockAddr base (j + i)) = ds[i] := by
  induction ds generalizing s j i with
  | nil => exact absurd h (Nat.not_lt_zero _)
  | cons d ds ih =>
    have hj : ∀ k, j + 1 + k = j + (k + 1) := fun k => by omega
    rw [State.writeBlock]
    cases i with
    | zero =>
      rw [State.writeBlock_memRead_other, State.memRead_memWrite, if_pos (by simp)]
      · rfl
      · intro k hk
        rw [hj]
        exact (hlast (k + 1) (by omega) (by simpa using hk)).symm
    | succ i =>
      have hlast' := ih (s.memWrite (blockAddr base j) d) (j + 1) i (by simpa using h)
      simp only [State.memWrite_ea, hj] at hlast'
      exact hlast' fun k hik hk => hlast (k + 1) (by omega) (by simpa using hk)

/-- Settles O12: the later words of the block leave the index alone. -/
theorem blockWriteKeepsTheLastWord : Obligations.BlockWriteKeepsTheLastWord := by
  intro s base ws i h hlast
  simpa only [Nat.zero_add] using
    State.writeBlock_memRead_last base ws s 0 i h (by simpa only [Nat.zero_add] using hlast)

/-- A block no longer than the register file is read back as it was written (R48). -/
theorem State.readBlock_writeBlock {s : State} (h : s.cfg.Legal) (base : Word) {ws : List Word}
    (hn : ws.length ≤ s.cfg.addrMask.toNat + 1) : (s.writeBlock base 0 ws).readBlock base ws.length = ws := by
  refine List.ext_getElem (by simp [State.readBlock]) fun i _ hi => ?_
  simp only [State.readBlock, List.getElem_map, List.getElem_range]
  exact blockWriteKeepsTheLastWord s base ws i hi fun k hik hk => State.ea_blockAddr_ne h base hik (by omega)

/-- A non-incrementing write leaves its last word at its address (R49). -/
theorem State.writeSame_memRead_getLast (s : State) (a : Word) {ws : List Word} (h : ws ≠ []) :
    (s.writeSame a ws).memRead a = ws.getLast h := by
  rw [State.writeSame_memRead, if_pos rfl, List.getLastD_eq_getLast?, List.getLast?_eq_some_getLast h, Option.getD_some]

@[simp] theorem State.readBlock_one (s : State) (a : Word) : s.readBlock a 1 = [s.memRead a] := by
  simp [State.readBlock]

theorem SameRegisters.readBlock {s t : State} (h : SameRegisters s t) (base : Word) (k : Nat) :
    t.readBlock base k = s.readBlock base k :=
  List.map_congr_left fun _ _ => h _

/-- WRITE leaves the register file as its block write does. -/
theorem State.doWrite_sameRegisters (s : State) (x : TxnHeader) (a : Word) (d : List Word) :
    SameRegisters (s.writeBlock a 0 d) (s.doWrite x a d) := by
  refine .of_reg_eq ?_ ?_
  · rw [State.doWrite_eq]
  · rw [State.doWrite_eq, State.writeBlock_eq]

/-- NI_WRITE leaves the register file as its block write does. -/
theorem State.doNiWrite_sameRegisters (s : State) (x : TxnHeader) (a : Word) (d : List Word) :
    SameRegisters (s.writeSame a d) (s.doNiWrite x a d) := by
  refine .of_reg_eq ?_ ?_
  · rw [State.doNiWrite_eq]
  · rw [State.doNiWrite_eq, State.writeSame_eq]

/-! ## Reply headers -/

/-- The reply header to a MAJOR = 2 request, field by field (R65, R93). -/
theorem replyHeader_latchV2 (h : HdrV2) (ver : BitVec 4) (raw : BitVec 5) (ty : TxnType) (n info : Word) :
    replyHeader .v2 (latchV2 h ver raw ty) n info = replyV2 h.tid (n.setWidth 8) (raw.setWidth 4) (info.setWidth 4) := by
  simp [replyHeader, expectedHeader_v2_bits, replyV2, latchV2]

/-- The reply header to a MAJOR = 1 request, field by field (R66, R93). -/
theorem replyHeader_latchV1 (h : HdrV1) (ver : BitVec 4) (raw : BitVec 5) (ty : TxnType) (n info : Word) :
    replyHeader .v1 (latchV1 h ver raw ty) n info = replyV1 h.tid (n.setWidth 9) raw (info.setWidth 2) := by
  simp [replyHeader, expectedHeader_v1_bits, replyV1, latchV1]

/-- READ, MAJOR = 2: what it appends to the reply (R101). -/
theorem exec_readV2_reply {s : State} (hm : s.cfg.major = .v2) (h : HdrV2) (a : Word) :
    ∃ t, exec (.readV2 h a) s = .next t ∧
      t.reply = s.reply ++ replyV2 h.tid h.wc 0#4 0#4 :: s.readBlock a h.wc.toNat := by
  refine ⟨_, rfl, ?_⟩
  have hwc : (h.wc.setWidth 9).toNat = h.wc.toNat := BitVec.toNat_setWidth_of_le (by decide)
  rw [State.doRead_eq, hm, replyHeader_latchV2]
  simp [latchV2, Major.codes, infoGood, hwc]

/-- READ, MAJOR = 1: what it appends to the reply (R101). -/
theorem exec_readV1_reply {s : State} (hm : s.cfg.major = .v1) (h : HdrV1) (a : Word) :
    ∃ t, exec (.readV1 h a) s = .next t ∧
      t.reply = s.reply ++ replyV1 h.tid h.wc 3#5 0#2 :: s.readBlock a h.wc.toNat := by
  refine ⟨_, rfl, ?_⟩
  rw [State.doRead_eq, hm, replyHeader_latchV1]
  simp [latchV1, Major.codes, infoGood]

@[simp] theorem State.doWrite_cfg (s : State) (x : TxnHeader) (a : Word) (d : List Word) : (s.doWrite x a d).cfg = s.cfg := by
  rw [State.doWrite_eq]

@[simp] theorem State.doNiWrite_cfg (s : State) (x : TxnHeader) (a : Word) (d : List Word) :
    (s.doNiWrite x a d).cfg = s.cfg := by
  rw [State.doNiWrite_eq]

/-- A block written by WRITE is read back as it was written, up to the file size (R48). -/
theorem State.readBlock_doWrite {s : State} (h : s.cfg.Legal) (x : TxnHeader) (a : Word) {ws : List Word}
    (hn : ws.length ≤ s.cfg.addrMask.toNat + 1) : (s.doWrite x a ws).readBlock a ws.length = ws := by
  rw [(s.doWrite_sameRegisters x a ws).readBlock, State.readBlock_writeBlock h a hn]

/-- After NI_WRITE one word read at its address is the last one written (R49). -/
theorem State.readBlock_one_doNiWrite (s : State) (x : TxnHeader) (a : Word) {ws : List Word} (h : ws ≠ []) :
    (s.doNiWrite x a ws).readBlock a 1 = [ws.getLast h] := by
  rw [(s.doNiWrite_sameRegisters x a ws).readBlock, State.readBlock_one, State.writeSame_memRead_getLast]

/-- Settles O13: the READ's reply is its header and the block, which is read back as the WRITE left it. -/
theorem writeThenReadRoundTrips : Obligations.WriteThenReadRoundTrips := by
  constructor
  · intro s hw hr a ws hleg hm hn _ hlen
    have hm' : (s.doWrite (latchV2 hw 2#4 Major.v2.codes.write .write) a ws).cfg.major = .v2 := by
      rw [State.doWrite_cfg, hm]
    obtain ⟨u, hu, hreply⟩ := exec_readV2_reply hm' hr a
    rw [hlen, State.readBlock_doWrite hleg _ a hn] at hreply
    exact ⟨_, u, rfl, hu, hreply⟩
  · intro s hw hr a ws hleg hm hn _ hlen
    have hm' : (s.doWrite (latchV1 hw 1#4 Major.v1.codes.write .write) a ws).cfg.major = .v1 := by
      rw [State.doWrite_cfg, hm]
    obtain ⟨u, hu, hreply⟩ := exec_readV1_reply hm' hr a
    rw [hlen, State.readBlock_doWrite hleg _ a hn] at hreply
    exact ⟨_, u, rfl, hu, hreply⟩

/-- Settles O14: the READ's reply is its header and the one word the NI_WRITE left last. -/
theorem lastWriteWins : Obligations.LastWriteWins := by
  constructor
  · intro s hw hr a ws h hm _ hone
    have hm' : (s.doNiWrite (latchV2 hw 2#4 Major.v2.codes.niWrite .niWrite) a ws).cfg.major = .v2 := by
      rw [State.doNiWrite_cfg, hm]
    obtain ⟨u, hu, hreply⟩ := exec_readV2_reply hm' hr a
    rw [hone, BitVec.toNat_ofNat, State.readBlock_one_doNiWrite _ _ a h] at hreply
    exact ⟨_, u, rfl, hu, hreply⟩
  · intro s hw hr a ws h hm _ hone
    have hm' : (s.doNiWrite (latchV1 hw 1#4 Major.v1.codes.niWrite .niWrite) a ws).cfg.major = .v1 := by
      rw [State.doNiWrite_cfg, hm]
    obtain ⟨u, hu, hreply⟩ := exec_readV1_reply hm' hr a
    rw [hone, BitVec.toNat_ofNat, State.readBlock_one_doNiWrite _ _ a h] at hreply
    exact ⟨_, u, rfl, hu, hreply⟩

/-! ## The scan of a control packet -/

/-- No instruction stops: every row of the table answers a next state. -/
theorem exec_next (i : Instr) (s : State) : ∃ t, exec i s = .next t := by
  cases i <;> exact ⟨_, rfl⟩

theorem andThen_next (s : State) (k : State → Host.Outcome State Fault Refusal) : andThen (.next s) k = k s := rfl

theorem encode_length_pos (i : Instr) : 0 < (encode i).length := Nat.succ_pos _

theorem State.executeTransaction_of_decode {s : State} {i : Instr} {rest : List Word}
    (h : decode s.cfg.major.table s.window = .ok (i, rest)) : s.executeTransaction = exec i s := by
  rw [State.executeTransaction, h]

theorem State.executePacket_of_decode {s : State} {i : Instr} {rest : List Word}
    (h : decode .packet s.window = .ok (i, rest)) : s.executePacket = exec i s := by
  rw [State.executePacket, h]

/-- When `pc` has moved, the window has lost the words fetched (R13, R62). -/
theorem State.window_of_pc {s t : State} {k : Nat} (hrx : t.rx = s.rx) (hn : t.n = s.n) (hpc : t.pc = s.pc + k) :
    t.window = s.window.drop k := by
  have hword : ∀ j, t.rxWord j = s.rxWord j := fun j => by rw [State.rxWord, hrx, State.rxWord]
  refine List.ext_getElem (by simp [hn, hpc]; omega) fun j _ _ => ?_
  simp [State.window, hword, hpc, Nat.add_assoc]

/-- The words of an instruction at the head of the window are the next transaction of the scan (R100). -/
theorem State.executeTransaction_of_window {s : State} {i : Instr} {ws : List Word} (hwf : WellFormed i)
    (hi : i.table = s.cfg.major.table) (hw : s.window = encode i ++ ws) : s.executeTransaction = exec i s :=
  State.executeTransaction_of_decode (by rw [hw, ← hi, decode_encode hwf])

/-- The scan of a window of transactions runs them all, in their order, and ends at its end (R124); every transaction
is at least one word, so the window's length is enough fuel. -/
theorem State.scanLoop_eq_execAll (is : List Instr) (s : State) (k : Nat)
    (his : ∀ i ∈ is, WellFormed i ∧ i.table = s.cfg.major.table) (hw : s.window = is.flatMap encode)
    (hk : s.n - s.pc ≤ k) : ∃ t, execAll is s = .next t ∧ State.scanLoop k s = .next t := by
  induction is generalizing s k with
  | nil =>
    have hlen : s.n - s.pc = 0 := by rw [← State.window_length, hw]; rfl
    have hend : ¬ s.pc < s.n := by omega
    refine ⟨s, rfl, ?_⟩
    cases k with
    | zero => rfl
    | succ k => rw [State.scanLoop, if_neg hend]
  | cons i is ih =>
    obtain ⟨⟨hwf, hi⟩, his⟩ := List.forall_mem_cons.mp his
    rw [List.flatMap_cons] at hw
    have hlen : s.n - s.pc = (encode i).length + (is.flatMap encode).length := by
      rw [← State.window_length, hw, List.length_append]
    have hpos := encode_length_pos i
    obtain ⟨k, rfl⟩ : ∃ j, k = j + 1 := ⟨k - 1, by omega⟩
    obtain ⟨t, ht⟩ := exec_next i s
    obtain ⟨⟨hcfg, hrx, -, -, -, -, hn, -⟩, hpc, -⟩ := exec_transaction (hi ▸ Major.table_ne_packet _) ht
    have hwt : t.window = is.flatMap encode := by
      rw [State.window_of_pc hrx hn hpc, hw, List.drop_left]
    obtain ⟨u, hall, hscan⟩ := ih t k (by rwa [hcfg]) hwt (by omega)
    refine ⟨u, ?_, ?_⟩
    · rw [execAll, ht, andThen_next, hall]
    · rw [State.scanLoop, if_pos (by omega), State.executeTransaction_of_window hwf hi hw, ht, andThen_next,
        hscan]

/-- Settles O50: the header opens the scan, and the scan runs the transactions of the words after it. -/
theorem controlPacketRunsInOrder : Obligations.ControlPacketRunsInOrder := by
  intro s p is his hwords hcap
  have hwin : s.openInvocation.window = encode (.pktCtrl p) ++ is.flatMap encode := by
    rw [← hwords]
    simp [State.window, State.rxWord, State.requestedWords]
  have hlen : s.requestedWords = 1 + (is.flatMap encode).length := by
    simpa [State.requestedWords, encode, bodyWords, Nat.add_comm] using congrArg List.length hwords
  have hpkt : s.openInvocation.executePacket = exec (.pktCtrl p) s.openInvocation :=
    State.executePacket_of_decode (by rw [hwin]; exact decode_encode (i := .pktCtrl p) rfl _)
  obtain ⟨t, ht⟩ := exec_next (.pktCtrl p) s.openInvocation
  obtain ⟨⟨hcfg, hrx, -, -, -, -, hn, -⟩, hpc, hlatch⟩ := exec_packet rfl ht
  have hkind : t.pkt.kind = .control := by
    rw [hlatch, latchedPacket, headerWord, packetType_word]
    rfl
  have hwt : t.window = is.flatMap encode := by
    rw [State.window_of_pc hrx hn hpc, hwin]
    rfl
  obtain ⟨u, hall, hscan⟩ := State.scanLoop_eq_execAll is t (t.n - t.pc) (by rwa [hcfg]) hwt le_rfl
  refine ⟨u, ?_, ?_⟩
  · rw [execAll, ht, andThen_next, hall]
  · rw [State.invoke, if_neg (by omega), if_neg (Nat.not_lt.mpr hcap : ¬ s.cfg.rxBufWords < s.requestedWords), hpkt, ht,
      andThen_next, State.scanBody, if_pos hkind, hscan, andThen_next]

end Sys2Proof.Machine

namespace Sys2Proof

/-! ## The round trip of the encoding -/

/-- Settles O2: the decoder of each sub-table reads back what the encoder lays out. -/
theorem decodeInvertsEncode : Obligations.DecodeInvertsEncode :=
  fun _ rest hwf => decode_encode hwf rest

/-- Settles O3: the decoder of each sub-table answers only what its encoding lays out. -/
theorem encodeInvertsDecode : Obligations.EncodeInvertsDecode :=
  fun _ _ _ _ h => decode_ok h

/-- Settles O1: the decoder computes the answer to each of the seven words. -/
theorem specWordsDecode : Obligations.SpecWordsDecode := by
  unfold Obligations.SpecWordsDecode
  decide

/-! ## Foreign versions -/

/-- A field cut at its own width is the slice of the word at its place (R7). -/
theorem BitField.cut_width (f : BitField) (w : Word) : f.cut f.width w = w.extractLsb' f.lo f.width :=
  BitVec.setWidth_eq _

/-- A header whose version is not MAJOR is UNKNOWN, whatever its type field holds (R69). -/
theorem classify_foreign {m : Major} {ver : BitVec 4} (h : ver ≠ m.code) (raw : BitVec 5) :
    classify m ver raw = .unknown :=
  if_pos h

/-- A MAJOR = 2 header of the UNKNOWN type is one word, all its fields kept (R67, R73). -/
theorem decodeTxnV2_of_unknown {w : Word} (h : (decodeHeader .v2 w).ttype = .unknown) (rest : List Word) :
    decodeTxnV2 (w :: rest) =
      .ok (.unknownV2 (cutV2 w) (Major.v2.layout.ver.cut 4 w) (Major.v2.layout.typeRaw.cut 4 w), rest) := by
  rw [decodeTxnV2, h]

/-- A MAJOR = 1 header of the UNKNOWN type is one word, all its fields kept (R68, R73). -/
theorem decodeTxnV1_of_unknown {w : Word} (h : (decodeHeader .v1 w).ttype = .unknown) (rest : List Word) :
    decodeTxnV1 (w :: rest) =
      .ok (.unknownV1 (cutV1 w) (Major.v1.layout.ver.cut 4 w) (Major.v1.layout.typeRaw.cut 5 w), rest) := by
  rw [decodeTxnV1, h]

/-- The fields of a MAJOR = 2 header word are slices of it (R65). -/
theorem cutV2_eq_extract (w : Word) : cutV2 w = ⟨w.extractLsb' 16 12, w.extractLsb' 8 8, w.extractLsb' 0 4⟩ := by
  simp only [cutV2, HdrV2.mk.injEq]
  exact ⟨BitField.cut_width _ w, BitField.cut_width _ w, BitField.cut_width _ w⟩

/-- The fields of a MAJOR = 1 header word are slices of it (R66). -/
theorem cutV1_eq_extract (w : Word) : cutV1 w = ⟨w.extractLsb' 17 11, w.extractLsb' 8 9, w.extractLsb' 0 3⟩ := by
  simp only [cutV1, HdrV1.mk.injEq]
  exact ⟨BitField.cut_width _ w, BitField.cut_width _ w, BitField.cut_width _ w⟩

/-- Settles O6: the version decides the type before the type field is looked at, and each field is a slice of the
word. -/
theorem foreignVersionIsUnknown : Obligations.ForeignVersionIsUnknown := by
  constructor
  · intro w rest hver
    have hcut : Major.v2.layout.ver.cut 4 w = w.extractLsb' 28 4 := BitField.cut_width _ w
    have hraw : Major.v2.layout.typeRaw.cut 4 w = w.extractLsb' 4 4 := BitField.cut_width _ w
    have hty : (decodeHeader .v2 w).ttype = .unknown := classify_foreign (hcut ▸ hver) _
    refine ⟨hty, BitField.cut_width Major.v2.layout.tid w, rfl, rfl, ?_⟩
    rw [decode, decodeTxnV2_of_unknown hty, hcut, hraw, cutV2_eq_extract]
  · intro w rest hver
    have hcut : Major.v1.layout.ver.cut 4 w = w.extractLsb' 28 4 := BitField.cut_width _ w
    have hraw : Major.v1.layout.typeRaw.cut 5 w = w.extractLsb' 3 5 := BitField.cut_width _ w
    have hty : (decodeHeader .v1 w).ttype = .unknown := classify_foreign (hcut ▸ hver) _
    refine ⟨hty, rfl, BitField.cut_width Major.v1.layout.wc w, hraw, ?_⟩
    rw [decode, decodeTxnV1_of_unknown hty, hcut, hraw, cutV1_eq_extract]

/-! ## The rows of the opcode table -/

/-- A mask that covers a field leaves it as it is. -/
theorem BitField.cut_and_mask {f : BitField} {mask : Word}
    (h : mask.extractLsb' f.lo f.width = BitVec.allOnes f.width) (n : Nat) (w : Word) :
    f.cut n (w &&& mask) = f.cut n w := by
  rw [BitField.cut, BitVec.extractLsb'_and, h, BitVec.and_allOnes, BitField.cut]

/-- The mask of the transaction rows leaves the decoded type as it is: it covers the version and the type field (R77). -/
theorem ttype_and_mask {m : Major} {mask : Word}
    (hver : mask.extractLsb' m.layout.ver.lo m.layout.ver.width = BitVec.allOnes m.layout.ver.width)
    (hraw : mask.extractLsb' m.layout.typeRaw.lo m.layout.typeRaw.width = BitVec.allOnes m.layout.typeRaw.width)
    (w : Word) : (decodeHeader m (w &&& mask)).ttype = (decodeHeader m w).ttype := by
  simp only [decodeHeader, BitField.cut_and_mask hver, BitField.cut_and_mask hraw]

/-- A MAJOR = 2 header word matches the row of a known type exactly when it is decoded to that type (R67, R77). -/
theorem rowV2_iff_ttype (w : Word) {ty : TxnType} {k : BitVec 5} (hk : Major.v2.codeOf ty = some k) :
    w &&& 0xF00000F0#32 = 0x20000000#32 ||| (k.setWidth 4).setWidth 32 <<< 4 ↔ (decodeHeader .v2 w).ttype = ty := by
  constructor
  · intro h
    rw [← ttype_and_mask (m := .v2) (mask := 0xF00000F0#32) rfl rfl, h]
    cases ty <;> cases hk <;> rfl
  · intro h
    rw [← cutV2_word_of_ttype h hk]
    exact Laws.RowMatch.v2_row _ k

/-- A MAJOR = 1 header word matches the row of a known type exactly when it is decoded to that type (R68, R77). -/
theorem rowV1_iff_ttype (w : Word) {ty : TxnType} {k : BitVec 5} (hk : Major.v1.codeOf ty = some k) :
    w &&& 0xF00000F8#32 = 0x10000000#32 ||| k.setWidth 32 <<< 3 ↔ (decodeHeader .v1 w).ttype = ty := by
  constructor
  · intro h
    rw [← ttype_and_mask (m := .v1) (mask := 0xF00000F8#32) rfl rfl, h]
    cases ty <;> cases hk <;> rfl
  · intro h
    rw [← cutV1_word_of_ttype h hk]
    exact Laws.RowMatch.v1_row _ k

/-- Settles O7: the row of a type matches exactly the words decoded to it, so the first row that matches is the row of
the decoded type. -/
theorem tableRowsSelectTheType : Obligations.TableRowsSelectTheType := by
  constructor
  · intro w
    have hread : w &&& 0xF00000F0#32 = 0x20000000#32 ↔ _ := rowV2_iff_ttype w (ty := .read) rfl
    have hwrite : w &&& 0xF00000F0#32 = 0x20000010#32 ↔ _ := rowV2_iff_ttype w (ty := .write) rfl
    have hniRead : w &&& 0xF00000F0#32 = 0x20000020#32 ↔ _ := rowV2_iff_ttype w (ty := .niRead) rfl
    have hniWrite : w &&& 0xF00000F0#32 = 0x20000030#32 ↔ _ := rowV2_iff_ttype w (ty := .niWrite) rfl
    have hrmwBits : w &&& 0xF00000F0#32 = 0x20000040#32 ↔ _ := rowV2_iff_ttype w (ty := .rmwBits) rfl
    have hrmwSum : w &&& 0xF00000F0#32 = 0x20000050#32 ↔ _ := rowV2_iff_ttype w (ty := .rmwSum) rfl
    simp only [hread, hwrite, hniRead, hniWrite, hrmwBits, hrmwSum]
    cases (decodeHeader .v2 w).ttype <;> rfl
  · intro w
    have hread : w &&& 0xF00000F8#32 = 0x10000018#32 ↔ _ := rowV1_iff_ttype w (ty := .read) rfl
    have hwrite : w &&& 0xF00000F8#32 = 0x10000020#32 ↔ _ := rowV1_iff_ttype w (ty := .write) rfl
    have hrmwBits : w &&& 0xF00000F8#32 = 0x10000028#32 ↔ _ := rowV1_iff_ttype w (ty := .rmwBits) rfl
    have hrmwSum : w &&& 0xF00000F8#32 = 0x10000030#32 ↔ _ := rowV1_iff_ttype w (ty := .rmwSum) rfl
    have hniRead : w &&& 0xF00000F8#32 = 0x10000040#32 ↔ _ := rowV1_iff_ttype w (ty := .niRead) rfl
    have hniWrite : w &&& 0xF00000F8#32 = 0x10000048#32 ↔ _ := rowV1_iff_ttype w (ty := .niWrite) rfl
    simp only [hread, hwrite, hniRead, hniWrite, hrmwBits, hrmwSum]
    cases (decodeHeader .v1 w).ttype <;> rfl

end Sys2Proof

namespace Sys2Proof.Machine

/-! ## What an invocation leaves -/

/-- The packet sequence number is bits 23:8 of the header (R63). -/
theorem packetSeq_eq_extract (w : Word) : packetSeq w = w.extractLsb' 8 16 :=
  BitField.cut_width _ w

/-- The reply buffer after the packet header `w`, by its kind (R124 to R127). -/
def State.replyAfterHeader (s : State) (w : Word) : List Word :=
  match packetKind (packetType w) with
  | .control => s.reply ++ [w]
  | .status => s.reply ++ (s.takeHeader w).statusReply
  | .resend => (historyFind s.history (packetSeq w)).getD s.reply
  | .unknown => s.reply

/-- What the meaning of a packet header leaves in the reply buffer (R124 to R127). -/
theorem exec_packet_reply {i : Instr} {s t : State} (hwf : WellFormed i) (hi : i.table = .packet)
    (h : exec i s = .next t) : t.reply = s.replyAfterHeader (headerWord i) := by
  cases i <;> simp only [Instr.table, reduceCtorEq] at hi <;> cases h <;>
    rw [State.replyAfterHeader, headerWord, packetType_word]
  case pktCtrl p => rfl
  case pktStatus p => rfl
  case pktResend p => rw [State.resendStored_eq]; rfl
  case pktUnknown p ty => rw [packetKind_eq_unknown.mpr hwf]; rfl

/-- A status reply is 16 words long (R150). -/
theorem State.statusReply_length (s : State) : s.statusReply.length = 16 := by
  simp [State.statusReply, trafficWords]

/-- What the transactions of a packet leave alone: the packet latches and the history; the reply only grows. -/
structure ScanFrame (s t : State) : Prop where
  pkt : t.pkt = s.pkt
  history : t.history = s.history
  reply : ∃ ws, t.reply = s.reply ++ ws

theorem ScanFrame.refl (s : State) : ScanFrame s s := ⟨rfl, rfl, [], by simp⟩

theorem ScanFrame.trans {s t u : State} (h₁ : ScanFrame s t) (h₂ : ScanFrame t u) : ScanFrame s u := by
  obtain ⟨ws, hws⟩ := h₁.reply
  obtain ⟨vs, hvs⟩ := h₂.reply
  exact ⟨h₂.pkt.trans h₁.pkt, h₂.history.trans h₁.history, ws ++ vs, by rw [hvs, hws, List.append_assoc]⟩

/-- What goes on after an outcome and ends goes on from a next state. -/
theorem andThen_eq_next {o : Host.Outcome State Fault Refusal} {k : State → Host.Outcome State Fault Refusal} {t : State}
    (h : andThen o k = .next t) : ∃ u, o = .next u ∧ k u = .next t := by
  cases o with
  | next u => exact ⟨u, rfl, h⟩
  | fault f => cases h
  | refused r => cases h

/-- A transaction that ends is one of the transactions of MAJOR's sub-table (R77, R100). -/
theorem State.executeTransaction_next {s t : State} (h : s.executeTransaction = .next t) :
    ∃ i, i.table ≠ .packet ∧ exec i s = .next t := by
  unfold State.executeTransaction at h
  split at h
  · next i rest hd =>
    obtain ⟨-, hi, -⟩ := decode_ok hd
    exact ⟨i, hi ▸ Major.table_ne_packet _, h⟩
  · cases h

/-- The scan keeps its frame, by induction on its turns. -/
theorem State.scanLoop_frame {k : Nat} {s t : State} (h : State.scanLoop k s = .next t) : ScanFrame s t := by
  induction k generalizing s with
  | zero => cases h; exact .refl _
  | succ k ih =>
    rw [State.scanLoop] at h
    split at h
    · obtain ⟨u, hu, hloop⟩ := andThen_eq_next h
      obtain ⟨i, hi, he⟩ := State.executeTransaction_next hu
      obtain ⟨⟨-, -, -, -, -, -, -, hpkt, hhist, -⟩, -, -, -, hreply, -⟩ := exec_transaction hi he
      exact .trans ⟨hpkt, hhist, hreply⟩ (ih hloop)
    · cases h; exact .refl _

/-- Step 4 of R120 keeps the frame of the scan, and only a control packet has transactions (R124). -/
theorem State.scanBody_next {s t : State} (h : s.scanBody = .next t) :
    ScanFrame s t ∧ (s.pkt.kind ≠ .control → t = s) := by
  unfold State.scanBody at h
  split at h
  · next hk => exact ⟨State.scanLoop_frame h, fun hne => absurd hk hne⟩
  · cases h; exact ⟨.refl _, fun _ => rfl⟩

/-- An invocation that ends has run a packet header, the one in word 0 of the buffer, and a scan (R120). -/
theorem State.invoke_next {s t : State} (h : s.invoke = .next t) :
    ∃ i u v, WellFormed i ∧ i.table = .packet ∧ headerWord i = s.rxWord 0 ∧ exec i s.openInvocation = .next u ∧
      u.scanBody = .next v ∧ t = v.finish := by
  unfold State.invoke at h
  split_ifs at h with h0 h1
  obtain ⟨v, hv, hfin⟩ := andThen_eq_next h
  obtain ⟨u, hu, hscan⟩ := andThen_eq_next hv
  unfold State.executePacket at hu
  split at hu
  · next i rest hd =>
    obtain ⟨hwf, hi, hwin⟩ := decodePacket_ok hd
    obtain ⟨r, hr⟩ := s.openInvocation_window (Nat.pos_of_ne_zero h0)
    cases hfin
    exact ⟨i, u, v, hwf, hi, (List.cons.inj (hwin.symm.trans hr)).1, hu, hscan, rfl⟩
  · cases hu

/-- What an invocation that ends leaves: what the packet header put into the reply comes first, the transactions of a
control packet append to it, and it is stored under the packet's sequence number (R75, R120, R129). -/
theorem State.invoke_reply {s t : State} (h : s.invoke = .next t) :
    (∃ ws, t.reply = s.openInvocation.replyAfterHeader (s.rxWord 0) ++ ws) ∧
    (packetKind (packetType (s.rxWord 0)) ≠ .control → t.reply = s.openInvocation.replyAfterHeader (s.rxWord 0)) ∧
    t.history = historyPush s.history (packetSeq (s.rxWord 0)) t.reply := by
  obtain ⟨i, u, v, hwf, hi, hw, hu, hscan, rfl⟩ := State.invoke_next h
  obtain ⟨⟨-, -, -, -, -, -, -, -, -, -, -, hhist, -⟩, -, hpkt⟩ := exec_packet hi hu
  have hreply := exec_packet_reply hwf hi hu
  obtain ⟨⟨fpkt, fhist, ws, hws⟩, hsame⟩ := State.scanBody_next hscan
  rw [hw] at hpkt hreply
  refine ⟨⟨ws, hreply ▸ hws⟩, fun hk => ?_, ?_⟩
  · rw [hsame (hpkt ▸ hk)]
    exact hreply
  · rw [State.finish_eq, fhist, hhist, fpkt, hpkt]
    rfl

/-- Settles O51: the packet header shapes the reply by its kind, the scan only appends to a control reply, and the end
stores it, consumes the delay and raises `done`. -/
theorem invocationShapesTheReply : Obligations.InvocationShapesTheReply := by
  intro s t h
  obtain ⟨⟨ws, hreply⟩, hsame, hhist⟩ := State.invoke_reply h
  obtain ⟨-, -, v, -, -, -, -, -, rfl⟩ := State.invoke_next h
  rw [State.replyAfterHeader] at hreply hsame
  rw [← packetType_eq_extract, ← packetSeq_eq_extract]
  refine ⟨fun hk => ?_, fun hk => ?_, fun hk => ?_, fun hk => ?_, hhist, Delay.afterFirst_eq _, rfl, rfl⟩
  · rw [hreply, hk]
    rfl
  · rw [hsame (by simp [hk]), hk]
    exact State.statusReply_length _
  · rw [hsame (by simp [hk]), hk]
    rfl
  · rw [hsame (by simp [hk]), hk]
    rfl

end Sys2Proof.Machine

namespace Sys2Proof

/-! ## The laws of the Header Codec -/

/-- Settles O4: the masks and places of the layouts are R92's numerals; the info field stands at bit 0, so it alone is
not shifted. -/
theorem packHeaderIsBitExact : Obligations.PackHeaderIsBitExact := by
  intro t n id info
  constructor
  · have hinfo : Major.v2.layout.info.put info = info &&& 0xF#32 := BitVec.shiftLeft_zero _
    rw [packHeader, buildHeader, hinfo]
    rfl
  · have hinfo : Major.v1.layout.info.put info = info &&& 0x7#32 := BitVec.shiftLeft_zero _
    rw [packHeader, buildHeader, hinfo]
    rfl

/-- DecodeHeader finds in a word of PackHeader, when MAJOR = 2, each argument truncated to its field (R90, R92). -/
theorem decodeHeader_packHeader_v2 (raw n id info : Word) :
    decodeHeader .v2 (packHeader .v2 raw n id info) =
      { hdr := packHeader .v2 raw n id info
        ver := 2#4
        tid := id.setWidth 12
        wc := (n.setWidth 8).setWidth 9
        typeRaw := (raw.setWidth 4).setWidth 5
        ttype := classify .v2 2#4 ((raw.setWidth 4).setWidth 5)
        infoIn := info.setWidth 4 } := by
  have hwc := BitField.cut_wider Major.v2.layout.wc (n := 8) (k := 9) (by decide)
  have hraw := BitField.cut_wider Major.v2.layout.typeRaw (n := 4) (k := 5) (by decide)
  simp only [decodeHeader, packHeader, hwc, hraw, buildHeader_v2_ver, buildHeader_v2_tid, buildHeader_v2_wc,
    buildHeader_v2_typeRaw, buildHeader_v2_info]
  rfl

/-- DecodeHeader finds in a word of PackHeader, when MAJOR = 1, each argument truncated to its field (R90, R92). -/
theorem decodeHeader_packHeader_v1 (raw n id info : Word) :
    decodeHeader .v1 (packHeader .v1 raw n id info) =
      { hdr := packHeader .v1 raw n id info
        ver := 1#4
        tid := (id.setWidth 11).setWidth 12
        wc := n.setWidth 9
        typeRaw := raw.setWidth 5
        ttype := classify .v1 1#4 (raw.setWidth 5)
        infoIn := (info.setWidth 3).setWidth 4 } := by
  have htid := BitField.cut_wider Major.v1.layout.tid (n := 11) (k := 12) (by decide)
  have hinfo := BitField.cut_wider Major.v1.layout.info (n := 3) (k := 4) (by decide)
  simp only [decodeHeader, packHeader, htid, hinfo, buildHeader_v1_ver, buildHeader_v1_tid, buildHeader_v1_wc,
    buildHeader_v1_typeRaw, buildHeader_v1_info]
  rfl

/-- A latch wider than its field holds the field zero-extended, so truncating it to the field loses nothing (R74). -/
theorem BitField.cut_setWidth_setWidth (f : BitField) {n k : Nat} (hn : f.width ≤ n) (hnk : n ≤ k) (hn32 : n ≤ 32)
    (w : Word) : (((f.cut k w).setWidth 32).setWidth n).setWidth k = f.cut k w := by
  rw [BitField.cut_wider f hn, BitVec.setWidth_setWidth_of_le _ hn32, BitVec.setWidth_setWidth_of_le _ hnk,
    BitVec.setWidth_eq]

/-- A reply header mirrors the transaction id and the type field of its request and carries version MAJOR (R94, law
1): the two latches hold what was cut from the fields they are packed into. -/
theorem expectedHeader_mirrors (m : Major) (w n info : Word) :
    let d := decodeHeader m w
    let e := decodeHeader m (expectedHeader m (d.typeRaw.setWidth 32) n (d.tid.setWidth 32) info)
    e.tid = d.tid ∧ e.typeRaw = d.typeRaw ∧ e.ver = m.code := by
  cases m with
  | v2 =>
    simp only [expectedHeader, decodeHeader_packHeader_v2]
    refine ⟨BitVec.setWidth_setWidth_of_le _ (by decide), ?_, rfl⟩
    exact BitField.cut_setWidth_setWidth Major.v2.layout.typeRaw (by decide) (by decide) (by decide) w
  | v1 =>
    simp only [expectedHeader, decodeHeader_packHeader_v1]
    refine ⟨?_, BitVec.setWidth_setWidth_of_le _ (by decide), rfl⟩
    exact BitField.cut_setWidth_setWidth Major.v1.layout.tid (by decide) (by decide) (by decide) w

/-- Settles O5: each latch holds its argument truncated to the field, and a value as wide as its field, or cut from
it, is not changed by that. -/
theorem headerCodecMirrorsAndRoundTrips : Obligations.HeaderCodecMirrorsAndRoundTrips := by
  refine ⟨expectedHeader_mirrors, fun t n id info => ?_, fun t n id info => ?_⟩
  · simp [decodeHeader_packHeader_v2]
  · simp [decodeHeader_packHeader_v1]

end Sys2Proof

namespace Sys2Proof.Machine

/-! ## The transactions: result, completion and frame

One lemma per handler says all that R101 to R108 say of it, under either major version: `l` is what the row's meaning
latches and `x` what DecodeHeader makes of its header word, `n` the word count and `e` the reply header. -/

/-- An update of the fields that transactions write is within their frame. -/
theorem TxnFrame.of_update {s : State} {pc : Nat} {txn : TxnHeader} {addr expected : Word} {reply : List Word}
    {reg : Memory} {recvRing sentRing : Vector Word 4} :
    TxnFrame s { s with pc, txn, addr, expected, reply, reg, recvRing, sentRing } :=
  ⟨rfl, rfl, rfl, rfl, rfl, rfl, rfl, rfl, rfl, rfl, rfl, rfl⟩

/-- What reads as after the write of one word: that word at its address, every other word as before it (R42). -/
theorem SameRegisters.memRead_of_memWrite {s t : State} {a v : Word} (h : SameRegisters (s.memWrite a v) t) :
    t.memRead a = v ∧ ∀ b : Word, s.ea b ≠ s.ea a → t.memRead b = s.memRead b := by
  constructor
  · rw [h, State.memRead_memWrite, if_pos rfl]
  · intro b hb
    rw [h, State.memRead_memWrite, if_neg hb]

/-- RMW_BITS leaves the register file as the write of its new word does. -/
theorem State.doRmwBits_sameRegisters (s : State) (x : TxnHeader) (a y z : Word) :
    SameRegisters (s.memWrite a ((s.memRead a &&& y) ||| z)) (s.doRmwBits x a y z) := by
  rw [State.doRmwBits_eq]
  exact .of_reg_eq rfl rfl

/-- RMW_SUM leaves the register file as the write of its new word does. -/
theorem State.doRmwSum_sameRegisters (s : State) (x : TxnHeader) (a y : Word) :
    SameRegisters (s.memWrite a (s.memRead a + y)) (s.doRmwSum x a y) := by
  rw [State.doRmwSum_eq]
  exact .of_reg_eq rfl rfl

section Handlers

variable {s t : State} {l x : TxnHeader} {a e : Word} {n : Nat}

/-- READ: the header and the words at ascending addresses, nothing written (R101, R108). -/
theorem State.doRead_outcome (hx : l = x) (hn : l.wc.toNat = n)
    (he : replyHeader s.cfg.major l (l.wc.setWidth 32) infoGood = e) (ht : t = s.doRead l a) :
    t.reply = s.reply ++ e :: (List.range n).map (fun i => s.memRead (a + BitVec.ofNat 32 i)) ∧
      t.pc = s.pc + 2 ∧ t.addr = a ∧ t.txn = x ∧ HeadersRecorded s t e ∧ SameRegisters s t ∧ TxnFrame s t := by
  rw [State.doRead_eq, hn, he, List.append_assoc] at ht
  subst ht
  exact ⟨rfl, rfl, rfl, hx, ⟨rfl, rfl, rfl⟩, fun _ => rfl, .of_update⟩

/-- NI_READ: the header and copies of the one word, nothing written (R102, R108). -/
theorem State.doNiRead_outcome (hx : l = x) (hn : l.wc.toNat = n)
    (he : replyHeader s.cfg.major l (l.wc.setWidth 32) infoGood = e) (ht : t = s.doNiRead l a) :
    t.reply = s.reply ++ e :: List.replicate n (s.memRead a) ∧
      t.pc = s.pc + 2 ∧ t.addr = a ∧ t.txn = x ∧ HeadersRecorded s t e ∧ SameRegisters s t ∧ TxnFrame s t := by
  have hsame : s.readSame a n = List.replicate n (s.memRead a) := by
    rw [State.readSame, List.map_const', List.length_range]
  rw [State.doNiRead_eq, hn, he, hsame, List.append_assoc] at ht
  subst ht
  exact ⟨rfl, rfl, rfl, hx, ⟨rfl, rfl, rfl⟩, fun _ => rfl, .of_update⟩

/-- WRITE: the words of the block stand at its addresses, the last of them where it laps itself, and the reply is the
header alone (R103, R108). -/
theorem State.doWrite_outcome {ws : List Word} (hx : l = x) (hn : ws.length = n)
    (he : replyHeader s.cfg.major l (writeReplyCount s.cfg.major l.wc) infoGood = e) (ht : t = s.doWrite l a ws) :
    t.reply = s.reply ++ [e] ∧
      (∀ (i : Nat) (hi : i < ws.length),
        (∀ k, i < k → k < ws.length → s.ea (blockAddr a k) ≠ s.ea (blockAddr a i)) → t.memRead (blockAddr a i) = ws[i]) ∧
      (∀ b : Word, (∀ k, k < ws.length → s.ea b ≠ s.ea (blockAddr a k)) → t.memRead b = s.memRead b) ∧
      t.pc = s.pc + (2 + n) ∧ t.addr = a ∧ t.txn = x ∧ HeadersRecorded s t e ∧ TxnFrame s t := by
  have hmem : SameRegisters (s.writeBlock a 0 ws) t := ht ▸ s.doWrite_sameRegisters l a ws
  have hlast (i : Nat) (hi : i < ws.length)
      (hlater : ∀ k, i < k → k < ws.length → s.ea (blockAddr a k) ≠ s.ea (blockAddr a i)) :
      t.memRead (blockAddr a i) = ws[i] := by
    rw [hmem, blockWriteKeepsTheLastWord s a ws i hi hlater]
  have hother (b : Word) (hb : ∀ k, k < ws.length → s.ea b ≠ s.ea (blockAddr a k)) : t.memRead b = s.memRead b := by
    rw [hmem, State.writeBlock_memRead_other a b ws s 0 (by simpa using hb)]
  rw [State.doWrite_eq, hn, he] at ht
  subst ht
  exact ⟨rfl, hlast, hother, rfl, rfl, hx, ⟨rfl, rfl, rfl⟩, .of_update⟩

/-- NI_WRITE: the one word holds the last data word, and the reply is the header alone (R104, R108). -/
theorem State.doNiWrite_outcome {ws : List Word} (hx : l = x) (hn : ws.length = n)
    (he : replyHeader s.cfg.major l (writeReplyCount s.cfg.major l.wc) infoGood = e) (ht : t = s.doNiWrite l a ws) :
    t.reply = s.reply ++ [e] ∧
      t.memRead a = ws.getLastD (s.memRead a) ∧ (∀ b : Word, s.ea b ≠ s.ea a → t.memRead b = s.memRead b) ∧
      t.pc = s.pc + (2 + n) ∧ t.addr = a ∧ t.txn = x ∧ HeadersRecorded s t e ∧ TxnFrame s t := by
  have hmem : SameRegisters (s.writeSame a ws) t := ht ▸ s.doNiWrite_sameRegisters l a ws
  have hlast : t.memRead a = ws.getLastD (s.memRead a) := by
    rw [hmem, State.writeSame_memRead, if_pos rfl]
  have hother (b : Word) (hb : s.ea b ≠ s.ea a) : t.memRead b = s.memRead b := by
    rw [hmem, State.writeSame_memRead, if_neg hb]
  rw [State.doNiWrite_eq, hn, he] at ht
  subst ht
  exact ⟨rfl, hlast, hother, rfl, rfl, hx, ⟨rfl, rfl, rfl⟩, .of_update⟩

/-- RMW_BITS: the word is masked and merged in place; the reply is the header and R47's result (R105, R108). -/
theorem State.doRmwBits_outcome {y z r : Word} (hx : l = x)
    (he : replyHeader s.cfg.major l 1#32 infoGood = e)
    (hr : rmwResult s.cfg.major (s.memRead a) ((s.memRead a &&& y) ||| z) = r) (ht : t = s.doRmwBits l a y z) :
    t.reply = s.reply ++ [e, r] ∧
      t.memRead a = (s.memRead a &&& y) ||| z ∧ (∀ b : Word, s.ea b ≠ s.ea a → t.memRead b = s.memRead b) ∧
      t.pc = s.pc + 4 ∧ t.addr = a ∧ t.txn = x ∧ HeadersRecorded s t e ∧ TxnFrame s t := by
  obtain ⟨hword, hother⟩ := (ht ▸ s.doRmwBits_sameRegisters l a y z : SameRegisters _ t).memRead_of_memWrite
  rw [State.doRmwBits_eq, he, rmwBitsNew, hr, List.append_assoc] at ht
  subst ht
  exact ⟨rfl, hword, hother, rfl, rfl, hx, ⟨rfl, rfl, rfl⟩, .of_update⟩

/-- RMW_SUM: the addend is added in place, modulo 2^32; the reply is the header and R47's result (R106, R108). -/
theorem State.doRmwSum_outcome {y r : Word} (hx : l = x)
    (he : replyHeader s.cfg.major l 1#32 infoGood = e)
    (hr : rmwResult s.cfg.major (s.memRead a) (t.memRead a) = r) (ht : t = s.doRmwSum l a y) :
    t.reply = s.reply ++ [e, r] ∧
      (t.memRead a).toNat = ((s.memRead a).toNat + y.toNat) % 2 ^ 32 ∧
      (∀ b : Word, s.ea b ≠ s.ea a → t.memRead b = s.memRead b) ∧
      t.pc = s.pc + 3 ∧ t.addr = a ∧ t.txn = x ∧ HeadersRecorded s t e ∧ TxnFrame s t := by
  obtain ⟨hword, hother⟩ := (ht ▸ s.doRmwSum_sameRegisters l a y : SameRegisters _ t).memRead_of_memWrite
  rw [hword] at hr
  rw [State.doRmwSum_eq, he, rmwSumNew, hr, List.append_assoc] at ht
  subst ht
  exact ⟨rfl, by rw [hword, BitVec.toNat_add], hother, rfl, rfl, hx, ⟨rfl, rfl, rfl⟩, .of_update⟩

/-- UNKNOWN: one error header; the latch `addr` is not written (R107, R108; entry 19). -/
theorem State.doUnknown_outcome (hx : l = x) (he : replyHeader s.cfg.major l 0#32 infoUnknown = e)
    (ht : t = s.doUnknown l) :
    t.reply = s.reply ++ [e] ∧
      t.pc = s.pc + 1 ∧ t.addr = s.addr ∧ t.txn = x ∧ HeadersRecorded s t e ∧ SameRegisters s t ∧ TxnFrame s t := by
  rw [State.doUnknown_eq, he] at ht
  subst ht
  exact ⟨rfl, rfl, rfl, hx, ⟨rfl, rfl, rfl⟩, fun _ => rfl, .of_update⟩

end Handlers

/-! ## The rows of the two versions: word counts and reply headers -/

theorem latchV2_wc_toNat (h : HdrV2) (ver : BitVec 4) (raw : BitVec 5) (ty : TxnType) :
    (latchV2 h ver raw ty).wc.toNat = h.wc.toNat :=
  BitVec.toNat_setWidth_of_le (by decide)

/-- A good MAJOR = 2 reply header with the request's own word count (R72, R93). -/
theorem replyHeader_trueCountV2 {m : Major} (hm : m = .v2) (h : HdrV2) (ver : BitVec 4) (raw : BitVec 5)
    (ty : TxnType) :
    replyHeader m (latchV2 h ver raw ty) ((latchV2 h ver raw ty).wc.setWidth 32) infoGood =
      replyV2 h.tid h.wc (raw.setWidth 4) 0#4 := by
  rw [hm, replyHeader_latchV2]
  simp [latchV2, infoGood]

/-- A good MAJOR = 1 reply header with the request's own word count (R72, R93). -/
theorem replyHeader_trueCountV1 {m : Major} (hm : m = .v1) (h : HdrV1) (ver : BitVec 4) (raw : BitVec 5)
    (ty : TxnType) :
    replyHeader m (latchV1 h ver raw ty) ((latchV1 h ver raw ty).wc.setWidth 32) infoGood =
      replyV1 h.tid h.wc raw 0#2 := by
  rw [hm, replyHeader_latchV1]
  simp [latchV1, infoGood]

/-- Settles O15: the outcome of READ, with the latches and the true-count header of each version. -/
theorem readAnswersTheBlock : Obligations.ReadAnswersTheBlock :=
  ⟨fun _ h _ hm => ⟨_, rfl, State.doRead_outcome (latchV2_eq_decodeHeader h rfl rfl) (latchV2_wc_toNat ..)
      (replyHeader_trueCountV2 hm ..) rfl⟩,
    fun _ h _ hm => ⟨_, rfl, State.doRead_outcome (latchV1_eq_decodeHeader h rfl) rfl
      (replyHeader_trueCountV1 hm ..) rfl⟩⟩

/-- Settles O16: the outcome of NI_READ, with the latches and the true-count header of each version. -/
theorem niReadRepeatsTheWord : Obligations.NiReadRepeatsTheWord :=
  ⟨fun _ h _ hm => ⟨_, rfl, State.doNiRead_outcome (latchV2_eq_decodeHeader h rfl rfl) (latchV2_wc_toNat ..)
      (replyHeader_trueCountV2 hm ..) rfl⟩,
    fun _ h _ hm => ⟨_, rfl, State.doNiRead_outcome (latchV1_eq_decodeHeader h rfl) rfl
      (replyHeader_trueCountV1 hm ..) rfl⟩⟩

/-- Settles O17: the outcome of WRITE; its reply counts the words under MAJOR = 2 and 0 under MAJOR = 1. -/
theorem writeStoresTheBlock : Obligations.WriteStoresTheBlock :=
  ⟨fun _ h _ _ hm hn => ⟨_, rfl, State.doWrite_outcome (latchV2_eq_decodeHeader h rfl rfl) hn
      (by rw [hm]; exact replyHeader_trueCountV2 rfl ..) rfl⟩,
    fun _ h _ _ hm hn => ⟨_, rfl, State.doWrite_outcome (latchV1_eq_decodeHeader h rfl) hn
      (by rw [hm]; exact replyHeader_latchV1 ..) rfl⟩⟩

/-- Settles O18: the outcome of NI_WRITE; its reply counts the words under MAJOR = 2 and 0 under MAJOR = 1. -/
theorem niWriteStoresTheLastWord : Obligations.NiWriteStoresTheLastWord :=
  ⟨fun _ h _ _ hm hn => ⟨_, rfl, State.doNiWrite_outcome (latchV2_eq_decodeHeader h rfl rfl) hn
      (by rw [hm]; exact replyHeader_trueCountV2 rfl ..) rfl⟩,
    fun _ h _ _ hm hn => ⟨_, rfl, State.doNiWrite_outcome (latchV1_eq_decodeHeader h rfl) hn
      (by rw [hm]; exact replyHeader_latchV1 ..) rfl⟩⟩

/-- Settles O19: the outcome of RMW_BITS; R47 picks the old word under MAJOR = 2 and the new one under MAJOR = 1. -/
theorem rmwBitsUpdatesOneWord : Obligations.RmwBitsUpdatesOneWord :=
  ⟨fun _ h _ _ _ hm => ⟨_, rfl, State.doRmwBits_outcome (latchV2_eq_decodeHeader h rfl rfl)
      (by rw [hm]; exact replyHeader_latchV2 ..) (by rw [hm]; rfl) rfl⟩,
    fun _ h _ _ _ hm => ⟨_, rfl, State.doRmwBits_outcome (latchV1_eq_decodeHeader h rfl)
      (by rw [hm]; exact replyHeader_latchV1 ..) (by rw [hm]; rfl) rfl⟩⟩

/-- Settles O20: the outcome of RMW_SUM; R47 picks the old word under MAJOR = 2 and the new one under MAJOR = 1. -/
theorem rmwSumUpdatesOneWord : Obligations.RmwSumUpdatesOneWord :=
  ⟨fun _ h _ _ hm => ⟨_, rfl, State.doRmwSum_outcome (latchV2_eq_decodeHeader h rfl rfl)
      (by rw [hm]; exact replyHeader_latchV2 ..) (by rw [hm]; rfl) rfl⟩,
    fun _ h _ _ hm => ⟨_, rfl, State.doRmwSum_outcome (latchV1_eq_decodeHeader h rfl)
      (by rw [hm]; exact replyHeader_latchV1 ..) (by rw [hm]; rfl) rfl⟩⟩

/-- Settles O21: the outcome of UNKNOWN; a well-formed catch-all row is latched as UNKNOWN. -/
theorem unknownAnswersAnErrorHeader : Obligations.UnknownAnswersAnErrorHeader :=
  ⟨fun _ h _ _ hm hwf => ⟨_, rfl, State.doUnknown_outcome
      (latchV2_eq_decodeHeader h (by simp) (classify_v2_eq_unknown.mpr hwf))
      (by rw [hm, replyHeader_latchV2]; simp [infoUnknown]) rfl⟩,
    fun _ h _ _ hm hwf => ⟨_, rfl, State.doUnknown_outcome
      (latchV1_eq_decodeHeader h (classify_v1_eq_unknown.mpr hwf))
      (by rw [hm]; exact replyHeader_latchV1 ..) rfl⟩⟩

/-- Settles O26: in the scan a step is ExecuteTransaction, which runs what is decoded from the window. -/
theorem stepRunsTheDecodedTransaction : Obligations.StepRunsTheDecodedTransaction := by
  intro s i rest hbusy hkind hpc hdec
  rw [step_of_scanning hbusy (by simp [State.scanning, hkind, hpc])]
  exact State.executeTransaction_of_decode hdec

end Sys2Proof.Machine

namespace Sys2Proof.Machine

/-! ## The packet kinds: result, completion and frame -/

/-- Settles O8: `pkt_type` is the field of bits 3:0, and both the kind and the decoder look at `pkt_type` only. -/
theorem packetKindFromLowBits : Obligations.PacketKindFromLowBits := by
  intro w rest
  rw [← packetType_eq_extract]
  refine ⟨rfl, rfl, ?_⟩
  rw [decode, decodePacket, packetKind]
  split_ifs <;> rfl

/-- A packet header word, field by field (R63). -/
theorem PktFields.word_eq_append (p : PktFields) (ty : BitVec 4) :
    p.word ty = p.ver ++ p.rsvd ++ p.seq ++ p.byteOrder ++ ty := by
  apply BitVec.eq_of_getLsbD_eq
  intro i hi
  simp only [BitVec.getLsbD_append]
  interval_cases i <;> simp [PktFields.word, BitField.put, BitField.width, pktLayout]

/-- What every packet header does, whatever its kind: the latches hold its fields, one word is consumed, and the rest
of the state is left alone (R121, R122). -/
theorem exec_packet_latches (i : Instr) {s t : State} {p : PktFields} {ty : BitVec 4} {kind : PktKind}
    (hi : i.table = .packet) (hw : headerWord i = p.word ty) (hk : packetKind ty = kind) (h : exec i s = .next t) :
    t.pkt = { hdr := p.word ty, seq := p.seq, ptype := ty, kind := kind } ∧ t.pc = s.pc + 1 ∧ PacketFrame s t := by
  obtain ⟨hframe, hpc, hpkt⟩ := exec_packet hi h
  refine ⟨?_, hpc, hframe⟩
  rw [hpkt, hw, latchedPacket, packetSeq_word, packetType_word, hk]

/-- Settles O22: what the header's meaning emits, records and pushes is its own word and code 2. -/
theorem controlPacketEchoesItsHeader : Obligations.ControlPacketEchoesItsHeader := fun _ p =>
  ⟨_, p.word 0#4, PktFields.word_eq_append p _, rfl, rfl, rfl, rfl, exec_packet_latches (.pktCtrl p) rfl rfl rfl rfl⟩

/-- Settles O25: the meaning pushes code 5 and does nothing else; a well-formed type is of the Unknown kind. -/
theorem unknownPacketRecordsOnly : Obligations.UnknownPacketRecordsOnly := fun _ p ty hwf =>
  ⟨_, p.word ty, PktFields.word_eq_append p _, rfl, rfl, rfl, rfl,
    exec_packet_latches (.pktUnknown p ty) rfl rfl (packetKind_eq_unknown.mpr hwf) rfl⟩

/-! ### The status reply -/

/-- Status word 3, field by field: only the sequence number differs from the last-seen control header (R151). -/
theorem nextControlHeader_eq_append (w : Word) :
    nextControlHeader w = w.extractLsb' 24 8 ++ (w.extractLsb' 8 16 + 1#16) ++ w.extractLsb' 0 8 := by
  rw [nextControlHeader, packetSeq_eq_extract]
  generalize w.extractLsb' 8 16 + 1#16 = seq
  apply BitVec.eq_of_getLsbD_eq
  intro i hi
  simp only [BitVec.getLsbD_append]
  interval_cases i <;> simp

/-- Four traffic events in a word, byte by byte (R152). -/
theorem packEvents_eq_append (a b c d : BitVec 8) : packEvents a b c d = a ++ b ++ c ++ d := by
  apply BitVec.eq_of_getLsbD_eq
  intro i hi
  simp only [BitVec.getLsbD_append]
  interval_cases i <;> simp [packEvents]

/-- The four entries of a header ring, oldest first (R22). -/
theorem headerRing_toList (r : Vector Word 4) : r.toList = [r[0], r[1], r[2], r[3]] :=
  List.ext_getElem (by simp) fun i hi _ => by
    have hi : i < 4 := by simpa using hi
    interval_cases i <;> rfl

/-- The 16 words of a status reply, bit by bit (R150 to R154). -/
theorem State.statusReply_eq (s : State) :
    s.statusReply =
      [s.pkt.hdr, BitVec.ofNat 32 (4 * s.cfg.rxBufWords), 5#32,
       s.lastCtrlHdr.extractLsb' 24 8 ++ (s.lastCtrlHdr.extractLsb' 8 16 + 1#16) ++ s.lastCtrlHdr.extractLsb' 0 8,
       s.traffic[0] ++ s.traffic[1] ++ s.traffic[2] ++ s.traffic[3],
       s.traffic[4] ++ s.traffic[5] ++ s.traffic[6] ++ s.traffic[7],
       s.traffic[8] ++ s.traffic[9] ++ s.traffic[10] ++ s.traffic[11],
       s.traffic[12] ++ s.traffic[13] ++ s.traffic[14] ++ s.traffic[15],
       s.recvRing[0], s.recvRing[1], s.recvRing[2], s.recvRing[3],
       s.sentRing[0], s.sentRing[1], s.sentRing[2], s.sentRing[3]] := by
  simp only [State.statusReply, trafficWords, nextControlHeader_eq_append, packEvents_eq_append, headerRing_toList]
  rfl

/-- Settles O23: the reply is built once the header is latched, and code 3 is pushed after it. -/
theorem statusPacketAnswersSixteenWords : Obligations.StatusPacketAnswersSixteenWords := fun s p =>
  ⟨_, p.word 1#4, PktFields.word_eq_append p _, rfl, congrArg (s.reply ++ ·) (State.statusReply_eq _), rfl, rfl,
    exec_packet_latches (.pktStatus p) rfl rfl rfl rfl⟩

/-! ### The resend -/

/-- A lookup finds the newest pair with the key (R144). -/
theorem historyFind_newest (older : List HistEntry) {newer : List HistEntry} {k : BitVec 16} (ws : List Word)
    (h : ∀ e ∈ newer, e.key ≠ k) : historyFind (older ++ HistEntry.mk k ws :: newer) k = some ws := by
  have hnone : newer.reverse.find? (fun e => e.key == k) = none := by simpa using h
  simp [historyFind, hnone]

/-- A lookup of a key that no pair has finds nothing (R144). -/
theorem historyFind_eq_none {h : List HistEntry} {k : BitVec 16} (hk : ∀ e ∈ h, e.key ≠ k) : historyFind h k = none := by
  simpa [historyFind] using hk

/-- The meaning of a resend packet looks its sequence number up in the history; a miss leaves the buffer alone (R126). -/
theorem exec_pktResend_reply {p : PktFields} {s t : State} (h : exec (.pktResend p) s = .next t) :
    t.reply = (historyFind s.history p.seq).getD s.reply := by
  rw [exec_packet_reply rfl rfl h, State.replyAfterHeader, headerWord, packetType_word, packetSeq_word]
  rfl

/-- Settles O24: the reply buffer is what the lookup finds, and the newest pair with the key is found. -/
theorem resendPacketReplacesTheReply : Obligations.ResendPacketReplacesTheReply := by
  intro s p
  have hreply := exec_pktResend_reply (p := p) (s := s) rfl
  refine ⟨_, p.word 2#4, PktFields.word_eq_append p _, rfl, fun older newer ws hh hne => ?_, fun hne => ?_, ?_, ?_,
    exec_packet_latches (.pktResend p) rfl rfl rfl rfl⟩
  · rw [hreply, hh, historyFind_newest older ws hne]
    rfl
  · rw [hreply, historyFind_eq_none hne]
    rfl
  · rw [State.resendStored_eq]
    rfl
  · rw [State.resendStored_eq]
    rfl

/-! ## The first and the last step of an invocation -/

/-- Settles O30: the two refusals of `start`, judged before anything else. -/
theorem emptyAndOversizeBuffersAreRefused : Obligations.EmptyAndOversizeBuffersAreRefused := fun _ hp hs =>
  ⟨step_of_empty hp hs, fun h0 => step_of_oversize hp hs (Nat.ne_of_gt h0)⟩

/-- A packet header is decoded from its one word, whatever follows it (R64). -/
theorem decodePacket_append {w : Word} {i : Instr} (h : decodePacket [w] = .ok (i, [])) (rest : List Word) :
    decodePacket (w :: rest) = .ok (i, rest) := by
  obtain ⟨hwf, hi, hw⟩ := decodePacket_ok h
  have henc : encode i = [w] := by rw [encode, bodyWords_of_packet hi, hw]
  simpa [henc] using decodePacket_encode hwf hi rest

/-- Settles O27: the window of the opened invocation begins with word 0, which alone is decoded. -/
theorem stepRunsTheDecodedPacket : Obligations.StepRunsTheDecodedPacket := by
  intro s i hp hs h0 h1 hdec
  obtain ⟨rest, hwin⟩ := s.openInvocation_window h0
  have hdec' : decode .packet s.openInvocation.window = .ok (i, rest) := by
    rw [hwin]
    exact decodePacket_append hdec rest
  rw [step_of_start hp hs (Nat.ne_of_gt h0) (Nat.not_lt.mpr h1), State.executePacket_of_decode hdec']
  rfl

/-- Settles O28: the step is `State.finish`, with the delay and the history it leaves written out. -/
theorem stepEndsTheInvocation : Obligations.StepEndsTheInvocation := by
  intro s hp hk
  have hscan : s.scanning = false := by simpa [State.scanning] using hk
  rw [step_of_scanned hp hscan, State.finish_eq, Delay.afterFirst_eq, historyPush_eq]

/-! ## The moves of the transport -/

theorem State.ready_iff {s : State} : s.ready = true ↔ s.phase = .idle ∧ s.start = false := by
  simp [State.ready]

theorem State.loadRx_of_ready {s : State} (h : s.ready = true) (ws : List Word) :
    s.loadRx ws = { s with rx := (ws ++ s.rx.drop ws.length).take s.cfg.rxBufWords } :=
  if_pos h

theorem State.loadRx_of_not_ready {s : State} (h : s.ready = false) (ws : List Word) : s.loadRx ws = s := by
  simp [State.loadRx, h]

theorem State.raiseStart_of_ready {s : State} (h : s.ready = true) (b : BitVec 32) :
    s.raiseStart b = { s with byteCount := b, start := true, done := false } :=
  if_pos h

theorem State.raiseStart_of_not_ready {s : State} (h : s.ready = false) (b : BitVec 32) : s.raiseStart b = s := by
  simp [State.raiseStart, h]

/-- A packet sent to a ready block: everything it changes (R132, R192). -/
theorem State.sendPacket_of_ready {s : State} (h : s.ready = true) (ws : List Word) :
    s.sendPacket ws = { s with
      rx := (ws ++ s.rx.drop ws.length).take s.cfg.rxBufWords, byteCount := BitVec.ofNat 32 (4 * ws.length),
      start := true, done := false } := by
  have hload := State.loadRx_of_ready h ws
  have hready : (s.loadRx ws).ready = true := by rw [hload]; exact h
  rw [State.sendPacket, State.raiseStart_of_ready hready, hload]

theorem State.sendPacket_of_not_ready {s : State} (h : s.ready = false) (ws : List Word) : s.sendPacket ws = s := by
  rw [State.sendPacket, State.loadRx_of_not_ready h, State.raiseStart_of_not_ready h]

/-- A load of `RX` keeps the invariant, which speaks of `RX` only while the block is busy. -/
theorem Inv.loadRx {s : State} (hs : Inv s) (ws : List Word) : Inv (s.loadRx ws) := by
  cases hr : s.ready with
  | false => rwa [State.loadRx_of_not_ready hr]
  | true =>
    obtain ⟨hleg, hreg, hhist, ⟨hpc, -⟩, hecho, hdone, hctrl⟩ := hs
    obtain ⟨hidle, -⟩ := State.ready_iff.mp hr
    rw [State.loadRx_of_ready hr]
    exact ⟨hleg, hreg, hhist, ⟨hpc, fun hb => absurd (hidle.symm.trans hb) (by decide)⟩, hecho, hdone, hctrl⟩

/-- A start keeps the invariant: it lowers `done`, and the block is not busy yet. -/
theorem Inv.raiseStart {s : State} (hs : Inv s) (b : BitVec 32) : Inv (s.raiseStart b) := by
  cases hr : s.ready with
  | false => rwa [State.raiseStart_of_not_ready hr]
  | true =>
    obtain ⟨hleg, hreg, hhist, ⟨hpc, -⟩, hecho, -, hctrl⟩ := hs
    obtain ⟨hidle, -⟩ := State.ready_iff.mp hr
    rw [State.raiseStart_of_ready hr]
    exact ⟨hleg, hreg, hhist, ⟨hpc, fun hb => absurd (hidle.symm.trans hb) (by decide)⟩, hecho, nofun, hctrl⟩

/-- Settles O48: a packet is a load and a start, and `rst` leaves the state after reset. -/
theorem transportKeepsTheInvariant : Obligations.TransportKeepsTheInvariant := fun _ ws _ _ hs hleg =>
  ⟨hs.loadRx ws, hs.raiseStart _, (hs.loadRx ws).raiseStart _, Inv.resetWith hleg⟩

/-- The words of a packet sent to a ready block stand in `RX` from index 0 (R16, R192). -/
theorem State.rxWord_sendPacket_of_lt {s : State} {ws : List Word} (hr : s.ready = true)
    (hcap : ws.length ≤ s.cfg.rxBufWords) {k : Nat} (hk : k < ws.length) : (s.sendPacket ws).rxWord k = ws[k] := by
  have hkcap : k < s.cfg.rxBufWords := by omega
  simp [State.rxWord, State.sendPacket_of_ready hr, List.getElem?_append, hkcap, hk]

/-- The words of `RX` above a packet sent to a ready block keep what they held (R132). -/
theorem State.rxWord_sendPacket_of_le {s : State} {ws : List Word} (hr : s.ready = true) {k : Nat}
    (hk : ws.length ≤ k) (hkcap : k < s.cfg.rxBufWords) : (s.sendPacket ws).rxWord k = s.rxWord k := by
  have hplace : ws.length + (k - ws.length) = k := by omega
  simp [State.rxWord, State.sendPacket_of_ready hr, List.getElem?_append, hkcap, Nat.not_lt.mpr hk,
    hplace]

/-- An invocation of exactly the words of the packet is asked for: four bytes a word (R192). -/
theorem State.requestedWords_sendPacket {s : State} {ws : List Word} (hr : s.ready = true)
    (hlen : 4 * ws.length < 2 ^ 32) : (s.sendPacket ws).requestedWords = ws.length := by
  rw [State.requestedWords, State.sendPacket_of_ready hr, BitVec.toNat_ofNat, Nat.mod_eq_of_lt hlen]
  omega

/-- Settles O53: where each word of `RX` comes from, and a block that is not ready. -/
theorem transportPlacesThePacket : Obligations.TransportPlacesThePacket := by
  intro s ws hcap hlen
  refine ⟨fun hr => ⟨fun _ => State.rxWord_sendPacket_of_lt hr hcap, fun _ => State.rxWord_sendPacket_of_le hr,
    State.requestedWords_sendPacket hr hlen, ?_⟩, fun hr => ⟨State.sendPacket_of_not_ready hr ws,
    State.loadRx_of_not_ready hr ws, State.raiseStart_of_not_ready hr⟩⟩
  rw [State.sendPacket_of_ready hr]

/-! ## A resend after an invocation -/

/-- What every transaction keeps, the scan keeps, by induction on its turns. -/
theorem State.scanLoop_keeps {P : State → Prop}
    (hP : ∀ (i : Instr) (u v : State), i.table ≠ .packet → exec i u = .next v → P u → P v) {k : Nat} {s t : State}
    (h : State.scanLoop k s = .next t) (hs : P s) : P t := by
  induction k generalizing s with
  | zero => cases h; exact hs
  | succ k ih =>
    rw [State.scanLoop] at h
    split at h
    · obtain ⟨u, hu, hloop⟩ := andThen_eq_next h
      obtain ⟨i, hi, he⟩ := State.executeTransaction_next hu
      exact ih hloop (hP i s u hi he hs)
    · cases h; exact hs

/-- What every transaction keeps, step 4 of R120 keeps. -/
theorem State.scanBody_keeps {P : State → Prop}
    (hP : ∀ (i : Instr) (u v : State), i.table ≠ .packet → exec i u = .next v → P u → P v) {s t : State}
    (h : s.scanBody = .next t) (hs : P s) : P t := by
  unfold State.scanBody at h
  split at h
  · exact State.scanLoop_keeps hP h hs
  · cases h; exact hs

/-- An invocation that ends had words to scan, and no more than the buffer holds (R131). -/
theorem State.invoke_requestedWords {s t : State} (h : s.invoke = .next t) :
    1 ≤ s.requestedWords ∧ s.requestedWords ≤ s.cfg.rxBufWords := by
  unfold State.invoke at h
  split_ifs at h
  omega

/-- An invocation that ends leaves the configuration alone and a block that takes the transport's moves (R132). -/
theorem State.invoke_ready {s t : State} (h : s.invoke = .next t) : t.cfg = s.cfg ∧ t.ready = true := by
  obtain ⟨i, u, v, -, hi, -, hu, hscan, rfl⟩ := State.invoke_next h
  obtain ⟨⟨ucfg, -, -, ustart, -⟩, -⟩ := exec_packet hi hu
  obtain ⟨vcfg, vstart⟩ : v.cfg = s.cfg ∧ v.start = false :=
    State.scanBody_keeps (P := fun x => x.cfg = s.cfg ∧ x.start = false) (fun i x y hi he hx => by
      obtain ⟨⟨ycfg, -, -, ystart, -⟩, -⟩ := exec_transaction hi he
      exact ⟨ycfg.trans hx.1, ystart.trans hx.2⟩) hscan ⟨ucfg, ustart⟩
  exact ⟨vcfg, State.ready_iff.mpr ⟨rfl, vstart⟩⟩

/-- After an invocation the newest pair of the history is the one of its own key and reply (R129, R143). -/
theorem State.invoke_historyFind {s t : State} (h : s.invoke = .next t) :
    historyFind t.history t.pkt.seq = some t.reply := by
  obtain ⟨-, -, v, -, -, -, -, -, rfl⟩ := State.invoke_next h
  exact historyFind_push_same v.history v.pkt.seq v.reply

/-- An invocation of a packet that is not a control packet is its header alone: it ends, and no register has changed
(R125 to R127). -/
theorem State.invoke_of_not_control {s : State} (h0 : 1 ≤ s.requestedWords) (h1 : s.requestedWords ≤ s.cfg.rxBufWords)
    (hk : (latchedPacket (s.rxWord 0)).kind ≠ .control) : ∃ u, s.invoke = .next u ∧ SameRegisters s u := by
  obtain ⟨rest, hwin⟩ := s.openInvocation_window h0
  obtain ⟨-, -, hdec⟩ := packetKindFromLowBits (s.rxWord 0) rest
  rw [← hwin] at hdec
  obtain ⟨-, hi, hw⟩ := decodePacket_ok hdec
  obtain ⟨u, hu⟩ := exec_next _ s.openInvocation
  obtain ⟨⟨hcfg, -, -, -, -, -, -, -, -, -, hreg, -⟩, -, hpkt⟩ := exec_packet hi hu
  rw [← (List.cons.inj (hwin.symm.trans hw)).1] at hpkt
  refine ⟨u.finish, ?_, .of_reg_eq hreg hcfg⟩
  rw [State.invoke, if_neg (Nat.ne_of_gt h0), if_neg (Nat.not_lt.mpr h1), State.executePacket_of_decode hdec, hu,
    andThen_next, State.scanBody, if_neg (hpkt ▸ hk), andThen_next]

/-- A resend packet sent to a ready block is answered with what its sequence number has in the history, and changes no
register (R126, R144). -/
theorem State.invoke_sendPacket_resend {s : State} {w : Word} (hready : s.ready = true) (hcap : 1 ≤ s.cfg.rxBufWords)
    (hty : w.extractLsb' 0 4 = 2#4) :
    ∃ u, (s.sendPacket [w]).invoke = .next u ∧ u.reply = (historyFind s.history (w.extractLsb' 8 16)).getD [] ∧
      SameRegisters s u := by
  have hsent := State.sendPacket_of_ready hready [w]
  have hcfg : (s.sendPacket [w]).cfg = s.cfg := by rw [hsent]
  have hhist : (s.sendPacket [w]).history = s.history := by rw [hsent]
  have hmem : SameRegisters s (s.sendPacket [w]) := by rw [hsent]; exact fun _ => rfl
  have hword : (s.sendPacket [w]).rxWord 0 = w := State.rxWord_sendPacket_of_lt (ws := [w]) hready hcap Nat.one_pos
  have hreq : (s.sendPacket [w]).requestedWords = 1 := State.requestedWords_sendPacket hready (by simp)
  have hkind : packetKind (w.extractLsb' 0 4) = .resend := packetKind_eq_resend.mpr hty
  have hne : (latchedPacket ((s.sendPacket [w]).rxWord 0)).kind ≠ .control := by
    rw [hword, latchedPacket, packetType_eq_extract, hkind]
    nofun
  obtain ⟨u, hu, hsame⟩ := State.invoke_of_not_control (by omega) (by rw [hreq, hcfg]; exact hcap) hne
  obtain ⟨-, -, hresend, -⟩ := invocationShapesTheReply _ _ hu
  rw [hword, hhist] at hresend
  exact ⟨u, hu, hresend hkind, fun a => (hsame a).trans (hmem a)⟩

/-- Settles O52: the resend finds the pair that the invocation before it has stored. -/
theorem resendRepeatsTheLastReply : Obligations.ResendRepeatsTheLastReply := by
  intro s t w h hty hseq
  obtain ⟨hcfg, hready⟩ := State.invoke_ready h
  obtain ⟨h0, h1⟩ := State.invoke_requestedWords h
  obtain ⟨u, hu, hreply, hsame⟩ := State.invoke_sendPacket_resend hready (hcfg ▸ h0.trans h1) hty
  rw [hseq, State.invoke_historyFind h] at hreply
  exact ⟨u, hu, hreply, hsame⟩

/-! ## The steps of an invocation -/

/-- The host's run of `k` steps, with the model's own types. -/
def State.runSteps (k : Nat) (s : State) : Host.Outcome State Fault Refusal := core.run k s

/-- A run of steps is the first step and a run from where it leads (entry 1). -/
theorem State.runSteps_succ (k : Nat) (s : State) : s.runSteps (k + 1) = andThen (step s) (State.runSteps k) := by
  have hstep : core.step s = step s := rfl
  simp only [State.runSteps, Host.Core.run, hstep]
  cases step s <;> rfl

theorem andThen_assoc (o : Host.Outcome State Fault Refusal) (f g : State → Host.Outcome State Fault Refusal) :
    andThen (andThen o f) g = andThen o fun s => andThen (f s) g := by
  cases o <;> rfl

/-- If runs of at most `m` steps make `k` of every state a step leads to, a run of at most `m + 1` steps makes the step
and then `k`; where the step stops, so does the run. -/
theorem exists_run_of_step {s : State} {o : Host.Outcome State Fault Refusal}
    {k : State → Host.Outcome State Fault Refusal} {m : Nat} (hs : step s = o)
    (hk : ∀ u, o = .next u → ∃ j, j ≤ m ∧ u.runSteps j = k u) :
    ∃ j, 1 ≤ j ∧ j ≤ m + 1 ∧ s.runSteps j = andThen o k := by
  cases o with
  | next u =>
    obtain ⟨j, hj, hrun⟩ := hk u rfl
    exact ⟨j + 1, by omega, by omega, by rw [State.runSteps_succ, hs, andThen_next, hrun, andThen_next]⟩
  | fault f => exact ⟨1, le_rfl, by omega, by rw [State.runSteps_succ, hs]; rfl⟩
  | refused r => exact ⟨1, le_rfl, by omega, by rw [State.runSteps_succ, hs]; rfl⟩

/-- The end of an invocation, as what follows its scan (R120, steps 5 and 6). -/
def State.ended (s : State) : Host.Outcome State Fault Refusal := .next s.finish

/-- A busy block whose scan is over ends the invocation in one step. -/
theorem exists_run_of_scanned {s : State} (hp : s.phase = .busy) (hs : s.scanning = false) (m : Nat) :
    ∃ j, j ≤ m + 1 ∧ s.runSteps j = s.ended :=
  ⟨1, by omega, by rw [State.runSteps_succ, step_of_scanned hp hs]; rfl⟩

/-- The steps from the scan of a control packet make its turns and the end of the invocation, by induction on the
turns: each transaction moves `pc` (R210). -/
theorem exists_run_of_scanLoop {s : State} {k : Nat} (hp : s.phase = .busy) (hc : s.pkt.kind = .control)
    (hk : s.n - s.pc ≤ k) : ∃ j, j ≤ k + 1 ∧ s.runSteps j = andThen (State.scanLoop k s) State.ended := by
  induction k generalizing s with
  | zero => exact exists_run_of_scanned hp (by simp [State.scanning]; omega) 0
  | succ k ih =>
    rw [State.scanLoop]
    split_ifs with hpc
    · rw [andThen_assoc]
      have hscan : s.scanning = true := by simp [State.scanning, hc, hpc]
      obtain ⟨j, -, hj, hrun⟩ := exists_run_of_step (step_of_scanning hp hscan) fun u hu => by
        obtain ⟨i, hi, he⟩ := State.executeTransaction_next hu
        obtain ⟨⟨-, -, -, -, fphase, -, fn, fpkt, -⟩, fpc, -⟩ := exec_transaction hi he
        have hpos := encode_length_pos i
        exact ih (fphase.trans hp) (fpkt ▸ hc) (by omega)
      exact ⟨j, hj, hrun⟩
    · exact exists_run_of_scanned hp (by simp [State.scanning, hpc]) _

/-- The steps of a busy block make the rest of its invocation (R120, steps 4 to 6). -/
theorem exists_run_of_scanBody {s : State} (hp : s.phase = .busy) :
    ∃ j, j ≤ s.n - s.pc + 1 ∧ s.runSteps j = andThen s.scanBody State.ended := by
  rw [State.scanBody]
  split_ifs with hc
  · exact exists_run_of_scanLoop hp hc le_rfl
  · exact exists_run_of_scanned hp (by simp [State.scanning, hc]) _

/-- A packet header that has been run was one of the packet sub-table (R77, R121). -/
theorem State.executePacket_next {s t : State} (h : s.executePacket = .next t) :
    ∃ i, i.table = .packet ∧ exec i s = .next t := by
  unfold State.executePacket at h
  split at h
  · next i rest hd =>
    obtain ⟨-, hi, -⟩ := decode_ok hd
    exact ⟨i, hi, h⟩
  · cases h

/-- Settles O49: one step judges the start and takes the header, at most N − 1 scan, and one ends the invocation. -/
theorem stepsMakeTheInvocation : Obligations.StepsMakeTheInvocation := by
  intro s hp hs
  change ∃ k, 1 ≤ k ∧ k ≤ s.requestedWords + 1 ∧ s.runSteps k = s.invoke
  rw [State.invoke]
  split_ifs with h0 h1
  · exact ⟨1, le_rfl, by omega, by rw [State.runSteps_succ, step_of_empty hp hs h0]; rfl⟩
  · exact ⟨1, le_rfl, by omega, by rw [State.runSteps_succ, step_of_oversize hp hs h0 h1]; rfl⟩
  · rw [andThen_assoc]
    refine exists_run_of_step (step_of_start hp hs h0 h1) fun u hu => ?_
    obtain ⟨i, hi, he⟩ := State.executePacket_next hu
    obtain ⟨⟨-, -, -, -, fphase, -, fn, -⟩, fpc, -⟩ := exec_packet hi he
    rw [State.openInvocation_n] at fn
    rw [State.openInvocation_pc] at fpc
    obtain ⟨j, hj, hrun⟩ := exists_run_of_scanBody fphase
    exact ⟨j, by omega, hrun⟩

end Sys2Proof.Machine

namespace Sys2Proof.Machine

/-! ## The rings and the reply history after many entries -/

/-- Settles O34: by induction on the pushes; each drops the oldest entry, and a ring is never empty. -/
theorem ringsKeepTheNewest : Obligations.RingsKeepTheNewest := by
  intro α n r vs
  induction vs generalizing r with
  | nil => simp
  | cons v vs ih =>
    have hr : r.toList ≠ [] := List.ne_nil_of_length_eq_add_one (Vector.length_toList ..)
    calc ((v :: vs).foldl ringPush r).toList
        = ((ringPush r v).toList ++ vs).drop vs.length := ih _
      _ = (r.toList ++ v :: vs).tail.drop vs.length := by
          rw [ringPush_toList, List.tail_append_of_ne_nil hr, List.append_assoc, List.singleton_append]
      _ = (r.toList ++ v :: vs).drop (v :: vs).length := by rw [List.drop_tail, List.length_cons]

/-- The newest `k` of a list, taken before more is appended, are enough for the newest `k` of the whole. -/
theorem rtake_rtake_append {α : Type} (k : Nat) (xs ys : List α) :
    (xs.rtake k ++ ys).rtake k = (xs ++ ys).rtake k := by
  simp [List.rtake_eq_reverse_take_reverse, List.take_append, List.take_take]

/-- A store keeps the newest five of the pairs and the one stored (R143). -/
theorem historyPush_eq_rtake {h : List HistEntry} (hl : h.length ≤ 5) (k : BitVec 16) (ws : List Word) :
    historyPush h k ws = (h ++ [HistEntry.mk k ws]).rtake 5 := by
  rw [historyPush, List.rtake, List.length_append, List.length_singleton, replyHistoryDepth]
  split_ifs with hfull
  · rw [show h.length + 1 - 5 = 1 by omega, List.drop_one]
  · rw [show h.length + 1 - 5 = 0 by omega, List.drop_zero]

/-- Settles O35: by induction on the stores. -/
theorem historyKeepsTheNewestFive : Obligations.HistoryKeepsTheNewestFive := by
  intro h es hl
  change _ = (h ++ es).rtake 5
  induction es generalizing h with
  | nil => rw [List.foldl_nil, List.append_nil, List.rtake, Nat.sub_eq_zero_of_le hl, List.drop_zero]
  | cons e es ih =>
    rw [List.foldl_cons, ih _ (historyPush_length h e.key e.words hl), historyPush_eq_rtake hl,
      rtake_rtake_append, List.append_assoc, List.singleton_append]

/-- Settles O36: of the pairs before, the one stored and those after it, the newest five hold the one stored exactly
when at most four come after it. -/
theorem resendReachesFiveStores : Obligations.ResendReachesFiveStores := by
  intro h es k ws hl hne
  have hstores := historyKeepsTheNewestFive h (HistEntry.mk k ws :: es) hl
  rw [List.foldl_cons] at hstores
  rw [hstores, List.length_append, List.length_cons]
  split_ifs with hfew
  · rw [List.drop_append_of_le_length (by omega)]
    exact historyFind_newest _ ws hne
  · have hdrop : h.length + (es.length + 1) - 5 = h.length + (es.length - 5 + 1) := by omega
    rw [hdrop, List.drop_length_add_append, List.drop_succ_cons]
    exact historyFind_eq_none fun e he => hne e (List.mem_of_mem_drop he)

/-! ## What a step records in the rings -/

/-- Settles O39: a transaction records both headers; the end and a packet header leave the two rings alone. -/
theorem headerRingsRecordTransactions : Obligations.HeaderRingsRecordTransactions := by
  intro s t h
  rcases step_next_decoded h with ⟨hp, -, rfl⟩ | ⟨-, hk, rfl⟩ | ⟨hb, hk, hn, i, hi, -, he, -⟩ |
    ⟨hp, -, -, -, i, -, hi, -, he⟩
  · simp [hp]
  · rw [if_neg fun hc => hk hc.2]
    exact ⟨rfl, rfl⟩
  · obtain ⟨-, -, hrecv, hsent, -⟩ := exec_transaction hi he
    rw [if_pos ⟨hb, hk, hn⟩]
    exact ⟨hrecv, hsent⟩
  · obtain ⟨⟨-, -, -, -, -, -, -, -, -, -, -, -, hrecv, hsent, -⟩, -⟩ := exec_packet hi he
    simp [hp, hrecv, hsent]

/-- The code a packet of each kind leaves in the traffic ring (R21, R64). -/
def trafficCode : PktKind → BitVec 8
  | .control => trafficControl
  | .status => trafficStatus
  | .resend => trafficResend
  | .unknown => trafficUnknown

/-- The code of a packet type, type by type (R21, R64). -/
theorem trafficCode_packetKind (ty : BitVec 4) :
    trafficCode (packetKind ty) = if ty = 0#4 then 2#8 else if ty = 1#4 then 3#8 else if ty = 2#4 then 4#8 else 5#8 := by
  rw [packetKind]
  split_ifs <;> rfl

/-- A packet header leaves the code of its kind as the newest in the traffic ring (R124 to R127). -/
theorem exec_packet_traffic {i : Instr} {s t : State} (hwf : WellFormed i) (hi : i.table = .packet)
    (h : exec i s = .next t) : t.traffic = ringPush s.traffic (trafficCode (packetKind (packetType (headerWord i)))) := by
  cases i <;> simp only [Instr.table, reduceCtorEq] at hi <;> cases h <;> rw [headerWord, packetType_word]
  case pktCtrl p => rfl
  case pktStatus p => rfl
  case pktResend p => rw [State.resendStored_eq]; rfl
  case pktUnknown p ty => rw [packetKind_eq_unknown.mpr hwf]; rfl

/-- Settles O40: the header in word 0 records the code of its kind; the end and a transaction leave the ring alone. -/
theorem trafficRecordsEachPacketOnce : Obligations.TrafficRecordsEachPacketOnce := by
  intro s t h
  rcases step_next_decoded h with ⟨-, hs, rfl⟩ | ⟨hb, -, rfl⟩ | ⟨hb, -, -, i, hi, -, he, -⟩ |
    ⟨hp, hs, -, -, i, hwf, hi, hw, he⟩
  · simp [hs]
  · simp [hb, State.finish_eq]
  · obtain ⟨⟨-, -, -, -, -, -, -, -, -, htraffic, -⟩, -⟩ := exec_transaction hi he
    simp [hb, htraffic]
  · rw [if_pos ⟨hp, hs⟩, exec_packet_traffic hwf hi he, hw, trafficCode_packetKind, packetType_eq_extract]
    rfl

end Sys2Proof.Machine

namespace Sys2Proof

/-! ## How many words a transaction takes -/

/-- The decoder takes `k` of `len` words and leaves the others, or fails because they are fewer than `k`. -/
def Decoded.Takes (d : Decoded) (k len : Nat) : Prop :=
  match d with
  | .ok (_, rest) => rest.length + k = len
  | .error _ => len < k

/-- The header word of a body is one word more. -/
theorem Decoded.Takes.succ {d : Decoded} {k len : Nat} (h : d.Takes k len) : d.Takes (k + 1) (len + 1) := by
  cases d with
  | ok r => exact congrArg Nat.succ h
  | error e => exact Nat.succ_lt_succ h

/-- A body of one word (R71). -/
theorem body1_takes (f : Word → Instr) (ws : List Word) : (body1 f ws).Takes 1 ws.length := by
  cases ws with
  | nil => exact Nat.one_pos
  | cons a rest => rfl

/-- A body of two words (R71). -/
theorem body2_takes (f : Word → Word → Instr) (ws : List Word) : (body2 f ws).Takes 2 ws.length := by
  match ws with
  | [] | [_] => simp [body2, Decoded.Takes]
  | _ :: _ :: rest => rfl

/-- A body of three words (R71). -/
theorem body3_takes (f : Word → Word → Word → Instr) (ws : List Word) : (body3 f ws).Takes 3 ws.length := by
  match ws with
  | [] | [_] | [_, _] => simp [body3, Decoded.Takes]
  | _ :: _ :: _ :: rest => rfl

/-- A body of an address and `n` data words (R71). -/
theorem bodyData_takes (n : Nat) (f : Word → List Word → Instr) (ws : List Word) :
    (bodyData n f ws).Takes (n + 1) ws.length := by
  cases ws with
  | nil => exact Nat.succ_pos n
  | cons a rest =>
    rw [bodyData]
    split_ifs with hn
    · simp only [Decoded.Takes, List.length_drop, List.length_cons]
      omega
    · simp only [Decoded.Takes, List.length_cons]
      omega

/-- `TxnLen` of the transaction whose header word is `w` (R61, R73). -/
def Major.txnLenAt (m : Major) (w : Word) : Nat := txnLen (decodeHeader m w).ttype (decodeHeader m w).wc.toNat

/-- The word count of a MAJOR = 2 header is the same number in its 8-bit field and in the 9-bit latch (R74). -/
theorem cutV2_wc_toNat (w : Word) : (cutV2 w).wc.toNat = (decodeHeader .v2 w).wc.toNat := by
  have hcut : (decodeHeader .v2 w).wc = (cutV2 w).wc.setWidth 9 :=
    BitField.cut_wider (n := 8) Major.v2.layout.wc (by decide) w
  rw [hcut, BitVec.toNat_setWidth_of_le (by decide)]

/-- The MAJOR = 2 decoder takes the words that TxnLen gives the header (R71, R73). -/
theorem decodeTxnV2_takes (w : Word) (body : List Word) :
    (decodeTxnV2 (w :: body)).Takes (Major.v2.txnLenAt w) (body.length + 1) := by
  rw [Major.txnLenAt, ← cutV2_wc_toNat, decodeTxnV2]
  cases (decodeHeader .v2 w).ttype with
  | read | niRead => exact (body1_takes _ body).succ
  | write | niWrite => rw [txnLen, Nat.add_comm]; exact (bodyData_takes _ _ body).succ
  | rmwBits => exact (body3_takes _ body).succ
  | rmwSum => exact (body2_takes _ body).succ
  | unknown => rfl

/-- The MAJOR = 1 decoder takes the words that TxnLen gives the header (R71, R73). -/
theorem decodeTxnV1_takes (w : Word) (body : List Word) :
    (decodeTxnV1 (w :: body)).Takes (Major.v1.txnLenAt w) (body.length + 1) := by
  rw [Major.txnLenAt, decodeTxnV1]
  cases (decodeHeader .v1 w).ttype with
  | read | niRead => exact (body1_takes _ body).succ
  | write | niWrite => rw [txnLen, Nat.add_comm]; exact (bodyData_takes _ _ body).succ
  | rmwBits => exact (body3_takes _ body).succ
  | rmwSum => exact (body2_takes _ body).succ
  | unknown => rfl

/-- The decoder of either version takes the words that TxnLen gives the header (R61, R73). -/
theorem decodeTxn_takes (m : Major) (w : Word) (body : List Word) :
    (decode m.table (w :: body)).Takes (m.txnLenAt w) (body.length + 1) := by
  cases m with
  | v1 => exact decodeTxnV1_takes w body
  | v2 => exact decodeTxnV2_takes w body

/-- Every word is a packet header (R64, R76). -/
theorem decodePacket_cons (w : Word) (rest : List Word) : ∃ i, decodePacket (w :: rest) = .ok (i, rest) := by
  rw [decodePacket]
  cases packetKind (packetType w) <;> exact ⟨_, rfl⟩

end Sys2Proof

namespace Sys2Proof.Machine

/-! ## The only stops of the block -/

/-- Settles O32: each arm of `exec` answers a next state. -/
theorem noInstructionStops : Obligations.NoInstructionStops := exec_next

/-- In the scan the decoder takes from the window the words that TxnLen gives the header at `pc` (R62, R73). -/
theorem State.window_takes {s : State} (hpc : s.pc < s.n) :
    (decode s.cfg.major.table s.window).Takes (s.cfg.major.txnLenAt (s.rxWord s.pc)) (s.n - s.pc) := by
  rw [← s.window_length, s.window_cons hpc]
  exact decodeTxn_takes _ _ _

/-- A transaction of the scan that runs past N stops with F1 at N; any other completes and moves `pc` by its length
(R73, R165). -/
theorem State.executeTransaction_of_lt {s : State} (hpc : s.pc < s.n) :
    (s.n < s.pc + s.cfg.major.txnLenAt (s.rxWord s.pc) ∧ s.executeTransaction = .fault (.malformedBody s.n)) ∨
      (s.pc + s.cfg.major.txnLenAt (s.rxWord s.pc) ≤ s.n ∧
        ∃ t, s.executeTransaction = .next t ∧ t.pc = s.pc + s.cfg.major.txnLenAt (s.rxWord s.pc)) := by
  have htakes := State.window_takes hpc
  cases hdec : decode s.cfg.major.table s.window with
  | error e =>
    rw [hdec, Decoded.Takes] at htakes
    refine .inl ⟨by omega, ?_⟩
    rw [State.executeTransaction, hdec, State.window_length, Nat.add_sub_cancel' hpc.le]
  | ok r =>
    obtain ⟨i, rest⟩ := r
    rw [hdec, Decoded.Takes] at htakes
    obtain ⟨-, hi, hwin⟩ := decode_ok hdec
    obtain ⟨t, ht⟩ := exec_next i s
    obtain ⟨-, hmove, -⟩ := exec_transaction (hi ▸ Major.table_ne_packet _) ht
    have hlen : s.n - s.pc = (encode i).length + rest.length := by simpa using congrArg List.length hwin
    exact .inr ⟨by omega, t, (State.executeTransaction_of_decode hdec).trans ht, by omega⟩

/-- Settles O31: in the scan a step is ExecuteTransaction, which stops exactly when the transaction runs past N. -/
theorem missingBodyWordFaults : Obligations.MissingBodyWordFaults := by
  intro s hbusy hkind hpc
  rw [step_of_scanning hbusy (by simp [State.scanning, hkind, hpc])]
  rcases State.executeTransaction_of_lt hpc with ⟨hover, hfault⟩ | ⟨hfits, hnext⟩
  · exact ⟨fun _ => hfault, fun hle => absurd hle (Nat.not_le.mpr hover)⟩
  · exact ⟨fun hlt => absurd hfits (Nat.not_le.mpr hlt), fun _ => hnext⟩

/-- The packet header of an invocation that is not refused is always there and runs (R76, R131). -/
theorem State.executePacket_openInvocation {s : State} (h : 1 ≤ s.requestedWords) :
    ∃ t, s.openInvocation.executePacket = .next t := by
  obtain ⟨rest, hwin⟩ := s.openInvocation_window h
  obtain ⟨i, hi⟩ := decodePacket_cons (s.rxWord 0) rest
  obtain ⟨t, ht⟩ := exec_next i s.openInvocation
  exact ⟨t, (State.executePacket_of_decode (by rw [hwin]; exact hi)).trans ht⟩

/-- A step answers a next state, or stops: with F1 in the scan of a control packet, or with F2 at a start (R160 to
R166). -/
theorem step_next_or_stops (s : State) :
    (∃ t, step s = .next t) ∨
    (s.phase = .busy ∧ s.pkt.kind = .control ∧ s.pc < s.n ∧ step s = .fault (.malformedBody s.n)) ∨
    (s.phase = .idle ∧ s.start = true ∧ s.requestedWords = 0 ∧ step s = .refused .emptyBuffer) ∨
    (s.phase = .idle ∧ s.start = true ∧ s.cfg.rxBufWords < s.requestedWords ∧ step s = .refused .oversizeBuffer) := by
  cases hp : s.phase with
  | idle =>
    cases hs : s.start with
    | false => exact .inl ⟨s, step_of_idle hp hs⟩
    | true =>
      by_cases h0 : s.requestedWords = 0
      · exact .inr (.inr (.inl ⟨rfl, rfl, h0, step_of_empty hp hs h0⟩))
      · by_cases h1 : s.cfg.rxBufWords < s.requestedWords
        · exact .inr (.inr (.inr ⟨rfl, rfl, h1, step_of_oversize hp hs h0 h1⟩))
        · rw [step_of_start hp hs h0 h1]
          exact .inl (State.executePacket_openInvocation (Nat.one_le_iff_ne_zero.mpr h0))
  | busy =>
    cases hscan : s.scanning with
    | false => exact .inl ⟨s.finish, step_of_scanned hp hscan⟩
    | true =>
      obtain ⟨hkind, hpc⟩ : s.pkt.kind = .control ∧ s.pc < s.n := by simpa [State.scanning] using hscan
      rw [step_of_scanning hp hscan]
      rcases State.executeTransaction_of_lt hpc with ⟨-, hfault⟩ | ⟨-, t, hnext, -⟩
      · exact .inr (.inl ⟨rfl, hkind, hpc, hfault⟩)
      · exact .inl ⟨t, hnext⟩

/-- Settles O33: a step that stops is one of the three stops of `step_next_or_stops`. -/
theorem onlyF1AndF2Stop : Obligations.OnlyF1AndF2Stop := by
  intro s
  rcases step_next_or_stops s with ⟨t, h⟩ | ⟨hp, hkind, hpc, h⟩ | ⟨hp, hs, h0, h⟩ | ⟨hp, hs, h1, h⟩ <;> rw [h]
  · exact ⟨nofun, nofun⟩
  · refine ⟨fun f hf => ?_, nofun⟩
    cases hf
    exact ⟨hp, hkind, hpc, rfl⟩
  · refine ⟨nofun, fun r hr => ?_⟩
    cases hr
    exact ⟨hp, hs, .inl ⟨h0, rfl⟩⟩
  · refine ⟨nofun, fun r hr => ?_⟩
    cases hr
    exact ⟨hp, hs, .inr ⟨h1, rfl⟩⟩

end Sys2Proof.Machine

namespace Sys2Proof.Machine

/-! ## The idle block -/

/-- Settles O29: with no start pending the next thing up is to wait. -/
theorem idleBlockWaits : Obligations.IdleBlockWaits := fun _ hp hs => step_of_idle hp hs

/-! ## Another delay and another minor version -/

/-- The state with another reply delay and another MINOR. -/
def State.withDelayMinor (s : State) (d : Delay) (k : BitVec 4) : State :=
  { s with delay := d, cfg := { s.cfg with minor := k } }

/-- An incrementing write reads neither the delay nor MINOR: its addresses take ADDR_MASK alone. -/
theorem State.writeBlock_withDelayMinor (base : Word) (d : Delay) (k : BitVec 4) :
    ∀ (ds : List Word) (s : State) (i : Nat),
    (s.withDelayMinor d k).writeBlock base i ds = (s.writeBlock base i ds).withDelayMinor d k
  | [], _, _ => rfl
  | v :: ds, s, i => State.writeBlock_withDelayMinor base d k ds (s.memWrite (blockAddr base i) v) (i + 1)

/-- A non-incrementing write reads neither the delay nor MINOR. -/
theorem State.writeSame_withDelayMinor (a : Word) (d : Delay) (k : BitVec 4) : ∀ (ds : List Word) (s : State),
    (s.withDelayMinor d k).writeSame a ds = (s.writeSame a ds).withDelayMinor d k
  | [], _ => rfl
  | v :: ds, s => State.writeSame_withDelayMinor a d k ds (s.memWrite a v)

/-- No instruction reads the delay or MINOR (R2, R200): each commutes with a change of the two. -/
theorem exec_withDelayMinor (i : Instr) (s : State) (d : Delay) (k : BitVec 4) :
    exec i (s.withDelayMinor d k) = andThen (exec i s) fun t => .next (t.withDelayMinor d k) := by
  cases i with
  | pktResend p =>
    simp only [exec, execPktResend, State.resendStored_eq]
    rfl
  | writeV2 h a ws | writeV1 h a ws =>
    simp only [exec, execWriteV2, execWriteV1, State.doWrite_eq, State.writeBlock_withDelayMinor]
    rfl
  | niWriteV2 h a ws | niWriteV1 h a ws =>
    simp only [exec, execNiWriteV2, execNiWriteV1, State.doNiWrite_eq, State.writeSame_withDelayMinor]
    rfl
  | _ => rfl

theorem State.executePacket_withDelayMinor (s : State) (d : Delay) (k : BitVec 4) :
    (s.withDelayMinor d k).executePacket = andThen s.executePacket fun t => .next (t.withDelayMinor d k) := by
  have hwin : (s.withDelayMinor d k).window = s.window := rfl
  unfold State.executePacket
  rw [hwin]
  split
  · exact exec_withDelayMinor _ s d k
  · rfl

theorem State.executeTransaction_withDelayMinor (s : State) (d : Delay) (k : BitVec 4) :
    (s.withDelayMinor d k).executeTransaction = andThen s.executeTransaction fun t => .next (t.withDelayMinor d k) := by
  have hwin : (s.withDelayMinor d k).window = s.window := rfl
  have hmajor : (s.withDelayMinor d k).cfg.major = s.cfg.major := rfl
  unfold State.executeTransaction
  rw [hwin, hmajor]
  split
  · exact exec_withDelayMinor _ s d k
  · rfl

/-- The end of an invocation consumes whatever delay there is, so only MINOR still differs (R128). -/
theorem State.finish_withDelayMinor (s : State) (d : Delay) (k : BitVec 4) :
    (s.withDelayMinor d k).finish = s.finish.withDelayMinor .consumed k := by
  rw [State.finish_eq, Delay.afterFirst_eq]
  rfl

/-- A step from the state with another delay and MINOR stops as it did, or leaves the same state but for the two: the
delay that was put in, or, at the end of an invocation, the consumed one. -/
theorem step_withDelayMinor (s : State) (d : Delay) (k : BitVec 4) :
    ∃ d', step (s.withDelayMinor d k) = andThen (step s) fun t => .next (t.withDelayMinor d' k) := by
  cases hp : s.phase with
  | idle =>
    have hp' : (s.withDelayMinor d k).phase = .idle := hp
    refine ⟨d, ?_⟩
    cases hs : s.start with
    | false => rw [step_of_idle hp hs, step_of_idle hp' hs]; rfl
    | true =>
      have hs' : (s.withDelayMinor d k).start = true := hs
      by_cases h0 : s.requestedWords = 0
      · rw [step_of_empty hp hs h0, step_of_empty hp' hs' h0]; rfl
      by_cases h1 : s.cfg.rxBufWords < s.requestedWords
      · rw [step_of_oversize hp hs h0 h1, step_of_oversize hp' hs' h0 h1]; rfl
      rw [step_of_start hp hs h0 h1, step_of_start hp' hs' h0 h1]
      exact s.openInvocation.executePacket_withDelayMinor d k
  | busy =>
    have hp' : (s.withDelayMinor d k).phase = .busy := hp
    cases hc : s.scanning with
    | true =>
      rw [step_of_scanning hp hc, step_of_scanning hp' hc]
      exact ⟨d, s.executeTransaction_withDelayMinor d k⟩
    | false =>
      rw [step_of_scanned hp hc, step_of_scanned hp' hc, State.finish_withDelayMinor]
      exact ⟨.consumed, rfl⟩

/-- Settles O43: the two states a step leaves differ in the delay and MINOR alone, and a second change of the two
replaces the first. -/
theorem delayAndMinorChangeNoWord : Obligations.DelayAndMinorChangeNoWord := by
  intro s d e k
  obtain ⟨d', hstep⟩ := step_withDelayMinor s d k
  change andThen (step (s.withDelayMinor d k)) _ = _
  rw [hstep, andThen_assoc]
  rfl

end Sys2Proof.Machine
